-- ==== Sys2Proof/Word.lean ====
section
/-! DEFINITION. The word types of the block: 32-bit registers, bus data and physical addresses (00_scope R9, R11; D1),
and bytes for the byte view of the register file (20_memory R58). -/

namespace Sys2Proof

/-- A 32-bit word: a register, a bus datum, a physical address or a command word (00_scope R9). -/
abbrev Word := BitVec 32

/-- One byte (20_memory R58). -/
abbrev Byte := BitVec 8

end Sys2Proof
end

