-- ==== Sys2Proof/Config.lean ====
section
/-! DEFINITION. What is fixed for one machine: the constants of 00_scope R8, the parameters of 00_scope R10 as a plain
record, the accessor's answers (20_memory R53), and the free values, opaque constants of which nothing can be proved. -/

namespace Sys2Proof

/-- `PWM_BASE`, the physical base address of the controller (00_scope R8). -/
def Config.pwmBase : Word := 0x01c20e00

/-- `MAP_PAGES`, the number of pages the initializer maps (00_scope R8). -/
def Config.mapPages : Nat := 2

/-- A virtual address of a host context. 10_state R32 calls it opaque; DESIGN CHOICE (log 5): a natural number. -/
abbrev Addr := Nat

/-- Free value: which numbers stand for an error code of the accessor (00_scope R10, D13; log 5). -/
opaque Config.isSysErr : Nat → Bool

/-- `SysErr`, the opaque type of the accessor's error codes (00_scope R10, D13): some non-empty set of codes, of which
nothing can be proved, neither how many there are nor that two differ. DESIGN CHOICE (log 5): a code is carried as a
number, 0 being the one number that is a code whatever `Config.isSysErr` says, so that the state is plain data. -/
structure SysErr where
  code  : Nat
  valid : code = 0 ∨ Config.isSysErr code = true
deriving DecidableEq, Repr

/-- `CTRL_UNNAMED_READ` (00_scope R10, 10_state R24): how the unnamed bits of CTRL read. -/
inductive UnnamedRead where
  | storage
  | draw
deriving DecidableEq, Repr

/-- The parameters a model takes as arguments (00_scope R10). `PAGE_SIZE` is held by an exponent, so that every value of
the field is a power of two of at least 16 and every such power is the value of some field. `HOSTS` is held as one id and
a list of further ids, so that it is finite and not empty and every such set is the value of some fields. -/
structure Params where
  pageExp     : Nat
  unnamedRead : UnnamedRead
  firstHost   : Nat
  moreHosts   : List Nat
deriving DecidableEq, Repr

/-- `PAGE_SIZE`: "a power of two, at least 16" (00_scope R10, D18). -/
def Params.pageSize (p : Params) : Nat := 16 * 2 ^ p.pageExp

/-- `HOSTS`: the "finite non-empty set of host-context ids" (00_scope R10, D16), as the list of its elements. -/
def Params.hosts (p : Params) : List Nat := p.firstHost :: p.moreHosts

/-- The answer of `Accessor.open()` (20_memory R53). -/
inductive OpenAnswer where
  | ok
  | err (e : SysErr)
deriving DecidableEq, Repr, Inhabited

/-- The answer of `Accessor.map(start, len)` (20_memory R53). A mapping is given by its page number: "`mapped` is a
multiple of `PAGE_SIZE`". -/
inductive MapAnswer where
  | ok (page : Nat)
  | err (e : SysErr)
deriving DecidableEq, Repr, Inhabited

/-- Free value: what `Accessor.open()` answers at the given draw (20_memory R53, D19; log 4). -/
opaque Config.openDraw : Nat → OpenAnswer

/-- Free value: what `Accessor.map` answers at the given draw (20_memory R53, D19; log 4). -/
opaque Config.mapDraw : Nat → MapAnswer

/-- Free value: what the unnamed bits of CTRL read as at the given draw when `CTRL_UNNAMED_READ = draw`
(10_state R24; log 6). -/
opaque Config.unnamedDraw : Nat → Word

/-- Free value: how many ticks there are per second while a sentinel prescaler index is selected (60_exceptions R216:
"the tick rate is not defined"; I2; log 13). -/
opaque Config.sentinelTickRate : BitVec 4 → Rat

/-- Free value: how long a tick lasts, in ns, while a sentinel prescaler index is selected; no law ties it to
`Config.sentinelTickRate` (60_exceptions R216, I2; log 13). -/
opaque Config.sentinelTickNs : BitVec 4 → Rat

end Sys2Proof
end

