-- ==== Sys2Proof/Syntax.lean ====
section
/-! DEFINITION. The commands of the block, one constructor per row of spec/opcode_table.json (30_encoding R83, R85), and
the names they are built from. -/

namespace Sys2Proof

/-- A channel: "exactly two channels, numbered 0 and 1" (00_scope R3; D23). -/
inductive Channel where
  | ch0
  | ch1
deriving DecidableEq, Repr

/-- The polarity operand of SETPOL (30_encoding R83). -/
inductive Polarity where
  | normal
  | inverted
deriving DecidableEq, Repr

/-- The three registers of the block (10_state R20(a)). -/
inductive Reg where
  | ctrl
  | period (ch : Channel)
deriving DecidableEq, Repr

/-- The seven commands (30_encoding R85) with their operands (30_encoding R88). The offset of the raw accesses is the
8-bit field `OFF` itself; `Instr.wf` says which values it may have. -/
inductive Instr where
  | init
  | setpol (ch : Channel) (pol : Polarity)
  | config (ch : Channel) (periodNs dutyNs : BitVec 64)
  | enable (ch : Channel)
  | disable (ch : Channel)
  | rdreg (off : BitVec 8)
  | wrreg (off : BitVec 8) (data : Word)
deriving DecidableEq, Repr

/-- Why a delivered command does not decode (30_encoding R86). `operandCount` is the model's own reason (log 10): the
number of words delivered is not the one 30_encoding R88 fixes for the opcode. -/
inductive IllegalReason where
  | reservedOpcode
  | nonZeroReserved
  | badOffset
  | operandCount
deriving DecidableEq, Repr

end Sys2Proof
end

