-- ==== Sys2Proof/Machine/State.lean ====
section
/-! DEFINITION. The state of the block as plain data (10_state R20, R39), the responses and refusals it records, the
inputs the outside world will give it, and the state after reset. -/

namespace Sys2Proof.Machine

/-- The statuses of 60_exceptions R200. -/
inductive Status where
  | ok
  | notInitialized
  | accessDenied (e : SysErr)
  | mappingFailed (e : SysErr)
  | periodUnrepresentable
deriving DecidableEq, Repr

/-- The response of a command: its status and, for RDREG with status OK, the word read (10_state R36,
30_encoding R89). -/
structure Response where
  status : Status
  data   : Option Word
deriving DecidableEq, Repr

/-- The reasons of a refusal recorded in the refusal mark (60_exceptions R205). -/
inductive RefuseReason where
  | illegalCommand (r : IllegalReason)
  | periodZero
  | badAccess
deriving DecidableEq, Repr

/-- Command-local values (10_state R35), with the names INIT's and RDREG's pseudocode carries from line to line
(40_initialize R100, 45_register_access R180; log 11). -/
structure Locals where
  v        : Word := 0
  g        : Bool := false
  idx      : BitVec 4 := 0
  word     : Word := 0
  pageSize : Nat := 0
  start    : Word := 0
  offset   : Word := 0
  mapped   : Addr := 0
  data     : Word := 0
deriving DecidableEq, Repr

/-- The controller state of a host context: `Idle` or `Busy(cmd, step, locals)`, where `step` is the number of the
next labelled line, counted from 1 (10_state R34; log 12). -/
inductive Ctl where
  | idle
  | busy (cmd : Instr) (step : Nat) (locals : Locals)
deriving DecidableEq, Repr

/-- A host context (10_state R32 to R36): its handle, its controller, and the responses it received, newest first
(70_reset R246). -/
structure HostCtx where
  handle    : Option Addr
  ctl       : Ctl
  responses : List Response
deriving DecidableEq, Repr

/-- A host context as it starts: no handle, an idle controller (70_reset R232). -/
def HostCtx.fresh : HostCtx := { handle := none, ctl := .idle, responses := [] }

/-- What the outside world does next (log 9). -/
inductive Event where
  /-- Context `h` issues the command of these words, and no other context moves before its response (log 21). -/
  | command (h : Nat) (ws : List Word)
  /-- Context `h` issues the command of these words (10_state R34). -/
  | issue (h : Nat) (ws : List Word)
  /-- Context `h` executes the next line of its command (20_memory R62). -/
  | advance (h : Nat)
  /-- Context `h` ends (70_reset R233). -/
  | exit (h : Nat)
deriving DecidableEq, Repr

/-- The state of the machine. `ctrl`, `period0`, `period1`, `hosts` and `refusals` are the spec's (10_state R20, R39;
60_exceptions R205); `input`, `openAnswers` and `mapAnswers` are what the outside world will do next; `params`, `cur`
and `draws` are the model's own. INVENTORY.md lists each with its rule. -/
structure State where
  ctrl        : Word
  period0     : Word
  period1     : Word
  hosts       : List (Nat × HostCtx)
  refusals    : List RefuseReason
  input       : List Event
  openAnswers : List OpenAnswer
  mapAnswers  : List MapAnswer
  params      : Params
  cur         : Nat
  draws       : Nat
deriving DecidableEq, Repr

/-- The reasons a step can stop with a fault. There is none: "No case of the block is treated as `fault` or `stuck`"
(93_implementation_defined, Part 1). -/
inductive Fault where
deriving DecidableEq, Repr

/-- The reasons the model gives no meaning to a call. -/
inductive Refusal where
  /-- An instruction that has no meaning yet; raised by no arm of `exec`. Safe. -/
  | notModelled (mnemonic : String)
  /-- `exec` asked to issue a command for a context whose previous command is still Busy: "A command cannot be issued
  while the same host context's previous command is `Busy`" (60_exceptions R209). Raised by every meaning, never by
  `step`. Safe: the spec excludes the case. -/
  | commandWhileBusy
deriving DecidableEq, Repr

/-- Power-on (70_reset R230, R232, R234): the registers at their draws, no context with a handle or a command under way,
nothing recorded and no input yet, under the given parameters. DESIGN CHOICE (log 3): the first context of HOSTS is listed
and `cur` names it. -/
def State.powerOn (p : Params) (ctrl period0 period1 : Word) : State where
  ctrl := ctrl
  period0 := period0
  period1 := period1
  hosts := [(p.firstHost, HostCtx.fresh)]
  refusals := []
  input := []
  openAnswers := []
  mapAnswers := []
  params := p
  cur := p.firstHost
  draws := 0

/-- The machine right after reset. DESIGN CHOICE (log 1): the three register draws of 70_reset R230 are zero. DESIGN
CHOICE (log 2): `PAGE_SIZE` is 4096; `CTRL_UNNAMED_READ` is the spec's default (10_state R24). DESIGN CHOICE (log 3):
`HOSTS` is the one context 0, the nominal case of 10_state R33. -/
def State.reset : State :=
  State.powerOn { pageExp := 8, unnamedRead := .storage, firstHost := 0, moreHosts := [] } 0 0 0

end Sys2Proof.Machine
end

