-- ==== Sys2Proof/Machine/Flags.lean ====
section
/-! DEFINITION. The block has no status flags and no condition codes (10_state R31): what a command reports is its
status. This file holds the numeric status codes of the response (60_exceptions R200, 30_encoding R89). -/

namespace Sys2Proof.Machine

/-- The 8-bit `STATUS` of a response (60_exceptions R200, 30_encoding R89). -/
def Status.code : Status → BitVec 8
  | .ok => 0
  | .notInitialized => 1
  | .accessDenied _ => 2
  | .mappingFailed _ => 3
  | .periodUnrepresentable => 4

/-- The system error code a status carries (30_encoding R89): "the `SysErr` value the accessor returned". -/
def Status.sysErr : Status → Option SysErr
  | .ok => none
  | .notInitialized => none
  | .accessDenied e => some e
  | .mappingFailed e => some e
  | .periodUnrepresentable => none

end Sys2Proof.Machine
end

