-- ==== Sys2Proof/WellFormed.lean ====
section
/-! DEFINITION. Well-formed commands. The types of Syntax.lean already bound channel, polarity and operand widths; the
one check left is that a raw access names a register (30_encoding R86, 45_register_access R180). -/

namespace Sys2Proof

/-- The offsets at which a register lies (20_memory R51, R57). -/
def validOffset (off : BitVec 8) : Bool :=
  off == 0x00 || off == 0x04 || off == 0x08

/-- A command is well formed when its offset, if it has one, is 0x00, 0x04 or 0x08 (30_encoding R86). -/
def Instr.wf : Instr → Bool
  | .init => true
  | .setpol _ _ => true
  | .config _ _ _ => true
  | .enable _ => true
  | .disable _ => true
  | .rdreg off => validOffset off
  | .wrreg off _ => validOffset off

end Sys2Proof
end

