-- ==== Sys2Proof/Decode.lean ====
section
/-! DEFINITION. Decoding a delivered command (30_encoding R84 to R88), total on any list of words and refusing by name;
then the encoder, the words of the opcode table, and the assembler text (30_encoding R90).

A command is delivered as 32-bit words: the command word, then its operand words, a 64-bit operand as two words with its
low half first. DESIGN CHOICE (log 10): the spec says which words are delivered and gives no unit of transport. -/

namespace Sys2Proof

/-- `OP`, bits 3:0 (30_encoding R84). -/
def opField (cw : Word) : BitVec 4 := cw.extractLsb' 0 4

/-- `CH`, bit 4. -/
def chField (cw : Word) : BitVec 1 := cw.extractLsb' 4 1

/-- `POL`, bit 5. -/
def polField (cw : Word) : BitVec 1 := cw.extractLsb' 5 1

/-- `Z0`, bits 7:6. -/
def z0Field (cw : Word) : BitVec 2 := cw.extractLsb' 6 2

/-- `OFF`, bits 15:8. -/
def offField (cw : Word) : BitVec 8 := cw.extractLsb' 8 8

/-- `Z1`, bits 31:16. -/
def z1Field (cw : Word) : BitVec 16 := cw.extractLsb' 16 16

/-- The channel a `CH` bit names (30_encoding R84). -/
def Channel.ofBit (b : BitVec 1) : Channel := if b = 1 then .ch1 else .ch0

/-- The `CH` bit of a channel. -/
def Channel.bit : Channel → BitVec 1
  | .ch0 => 0
  | .ch1 => 1

/-- The polarity a `POL` bit names: 1 = Normal, 0 = Inverted (30_encoding R84, D29). -/
def Polarity.ofBit (b : BitVec 1) : Polarity := if b = 1 then .normal else .inverted

/-- The `POL` bit of a polarity. -/
def Polarity.bit : Polarity → BitVec 1
  | .normal => 1
  | .inverted => 0

/-- A 64-bit operand from the two words that carry it, low half first (log 10). -/
def join64 (lo hi : Word) : BitVec 64 := hi ++ lo

/-- The low word of a 64-bit operand. -/
def low32 (x : BitVec 64) : Word := x.extractLsb' 0 32

/-- The high word of a 64-bit operand. -/
def high32 (x : BitVec 64) : Word := x.extractLsb' 32 32

/-- How many 32-bit words a command has, told from `OP` alone (30_encoding R88): CONFIG carries two 64-bit operands,
WRREG one 32-bit operand, the others none. -/
def wordCount (cw : Word) : Nat :=
  if opField cw = 0x3 then 5 else if opField cw = 0x7 then 2 else 1

/-- The checks of 30_encoding R86 on a command word, in their order; `none` when the word passes. -/
def checkWord (cw : Word) : Option IllegalReason :=
  let op := opField cw
  if op = 0x0 ∨ 0x8 ≤ op then some .reservedOpcode
  else if z1Field cw ≠ 0 ∨ z0Field cw ≠ 0 then some .nonZeroReserved
  else if op ≠ 0x2 ∧ polField cw ≠ 0 then some .nonZeroReserved
  else if (op = 0x1 ∨ op = 0x6 ∨ op = 0x7) ∧ chField cw ≠ 0 then some .nonZeroReserved
  else if ¬ (op = 0x6 ∨ op = 0x7) ∧ offField cw ≠ 0 then some .nonZeroReserved
  else if (op = 0x6 ∨ op = 0x7) ∧ validOffset (offField cw) = false then some .badOffset
  else none

/-- The decoded command of a command word that passed the checks, with its operand words (30_encoding R85, R88). -/
def buildInstr (cw : Word) (ops : List Word) : Except IllegalReason Instr :=
  let ch := Channel.ofBit (chField cw)
  match (opField cw).toNat, ops with
  | 1, [] => .ok .init
  | 2, [] => .ok (.setpol ch (Polarity.ofBit (polField cw)))
  | 3, [p0, p1, d0, d1] => .ok (.config ch (join64 p0 p1) (join64 d0 d1))
  | 4, [] => .ok (.enable ch)
  | 5, [] => .ok (.disable ch)
  | 6, [] => .ok (.rdreg (offField cw))
  | 7, [d] => .ok (.wrreg (offField cw) d)
  | _, _ => .error .operandCount

/-- Decodes a delivered command (30_encoding R86). -/
def decode : List Word → Except IllegalReason Instr
  | [] => .error .operandCount
  | cw :: ops =>
    match checkWord cw with
    | some r => .error r
    | none => buildInstr cw ops

/-- A command word from its fields (30_encoding R84). -/
def commandWord (op : Word) (ch pol : BitVec 1) (off : BitVec 8) : Word :=
  op ||| (ch.setWidth 32 <<< 4) ||| (pol.setWidth 32 <<< 5) ||| (off.setWidth 32 <<< 8)

/-- The words of a command (30_encoding R84, R85, R88). -/
def encode : Instr → List Word
  | .init => [commandWord 0x1 0 0 0]
  | .setpol ch pol => [commandWord 0x2 ch.bit pol.bit 0]
  | .config ch p d => [commandWord 0x3 ch.bit 0 0, low32 p, high32 p, low32 d, high32 d]
  | .enable ch => [commandWord 0x4 ch.bit 0 0]
  | .disable ch => [commandWord 0x5 ch.bit 0 0]
  | .rdreg off => [commandWord 0x6 0 0 off]
  | .wrreg off data => [commandWord 0x7 0 0 off, data]

/-- The words of an instruction whose bits, numbered as spec/opcode_table.json numbers them, are the low `nbits` bits of
`w`: the command word is bits 31:0, the operand words follow upwards, and every bit above `nbits` is 0. -/
def tableWords (nbits w : Nat) : List Word :=
  let v := w % 2 ^ nbits
  let cw := BitVec.ofNat 32 v
  (List.range (wordCount cw)).map fun k => BitVec.ofNat 32 (v >>> (32 * k))

/-- The instruction the decoder reads from an instruction's bits as the opcode table numbers them. -/
def decodeTableWord (nbits w : Nat) : Option Instr :=
  match decode (tableWords nbits w) with
  | .ok i => some i
  | .error _ => none

/-- A channel in assembler text (30_encoding R90). -/
def Channel.asm : Channel → String
  | .ch0 => "0"
  | .ch1 => "1"

/-- A polarity in assembler text (30_encoding R90). -/
def Polarity.asm : Polarity → String
  | .normal => "Normal"
  | .inverted => "Inverted"

/-- The line of assembler text for a command (30_encoding R90), numbers in decimal. -/
def Instr.asm : Instr → String
  | .init => "initialize"
  | .setpol ch pol => "set_polarity " ++ ch.asm ++ ", " ++ pol.asm
  | .config ch p d => "configure " ++ ch.asm ++ ", " ++ Nat.repr p.toNat ++ ", " ++ Nat.repr d.toNat
  | .enable ch => "enable " ++ ch.asm
  | .disable ch => "disable " ++ ch.asm
  | .rdreg off => "rdreg " ++ Nat.repr off.toNat
  | .wrreg off data => "wrreg " ++ Nat.repr off.toNat ++ ", " ++ Nat.repr data.toNat

end Sys2Proof
end

