-- ==== Sys2Proof/Machine/Operands.lean ====
section
/-! DEFINITION. Operand forms: channel and offset operands, the fields of CTRL (30_encoding R70 to R74), the packing of
PERIOD (R75 to R77), and which access reaches which register (20_memory R51, R57). -/

namespace Sys2Proof.Machine

/-- The number of a channel (00_scope R3). -/
def chNum : Channel → Nat
  | .ch0 => 0
  | .ch1 => 1

/-- `15*ch`, the bit offset of a channel's fields in CTRL (30_encoding R71; `CH_STRIDE`, 00_scope R8). -/
def chShift (ch : Channel) : Nat := 15 * chNum ch

/-- `PRESC_MASK(ch)` (30_encoding R72). -/
def prescMask (ch : Channel) : Word := 0xF#32 <<< chShift ch

/-- `EN_BIT(ch)` (30_encoding R72). -/
def enBit (ch : Channel) : Word := 1#32 <<< (chShift ch + 4)

/-- `ACT_BIT(ch)` (30_encoding R72). -/
def actBit (ch : Channel) : Word := 1#32 <<< (chShift ch + 5)

/-- `GATE_BIT(ch)` (30_encoding R72). -/
def gateBit (ch : Channel) : Word := 1#32 <<< (chShift ch + 6)

/-- `CH_MASK(ch)` (30_encoding R72). -/
def chMask (ch : Channel) : Word := 0x7F#32 <<< chShift ch

/-- The bits of CTRL the document names: every other bit is unnamed (10_state R24). -/
def namedMask : Word := chMask .ch0 ||| chMask .ch1

/-- `PRESC(v, ch)` (30_encoding R73). -/
def presc (v : Word) (ch : Channel) : BitVec 4 := ((v >>> chShift ch) &&& 0xF).setWidth 4

/-- `EN(v, ch)` (30_encoding R73). -/
def en (v : Word) (ch : Channel) : Bool := (v >>> (chShift ch + 4)) &&& 1 == 1

/-- `ACT(v, ch)` (30_encoding R73). -/
def act (v : Word) (ch : Channel) : Bool := (v >>> (chShift ch + 5)) &&& 1 == 1

/-- `GATE(v, ch)` (30_encoding R73). -/
def gate (v : Word) (ch : Channel) : Bool := (v >>> (chShift ch + 6)) &&& 1 == 1

/-- An index moved to the place of `PRESC[ch]`: `(i & 0xF) << (15*ch)` (30_encoding R74). -/
def prescAt (ch : Channel) (i : BitVec 4) : Word := i.setWidth 32 <<< chShift ch

/-- `with_presc(v, ch, i)` (30_encoding R74). -/
def withPresc (v : Word) (ch : Channel) (i : BitVec 4) : Word := (v &&& ~~~ prescMask ch) ||| prescAt ch i

/-- `with_bit(v, m, b)` (30_encoding R74). -/
def withBit (v m : Word) (b : Bool) : Word := if b then v ||| m else v &&& ~~~ m

/-- The value SETPOL writes into `ACT[ch]`: Normal is 1, Inverted is 0 (41_polarity R111). -/
def Polarity.act : Polarity → Bool
  | .normal => true
  | .inverted => false

/-- `pack(period_ticks, duty_ticks)` (30_encoding R76): `period_ticks - 1` above the low 16 bits of `duty_ticks`. -/
def pack (periodTicks dutyTicks : Nat) : Word :=
  (BitVec.ofNat 32 (periodTicks - 1) <<< 16) ||| (BitVec.ofNat 32 dutyTicks &&& 0xFFFF)

/-- `PRD_M1`, bits 31:16 of a PERIOD word (30_encoding R75). -/
def prdM1 (w : Word) : BitVec 16 := w.extractLsb' 16 16

/-- `DUTY`, bits 15:0 of a PERIOD word (30_encoding R75). -/
def duty (w : Word) : BitVec 16 := w.extractLsb' 0 16

/-- `unpack(w)` (30_encoding R77). -/
def unpack (w : Word) : Nat × Nat := ((prdM1 w).toNat + 1, (duty w).toNat)

/-- The byte offset of a register (20_memory R51). -/
def regOffset : Reg → Word
  | .ctrl => 0x000
  | .period .ch0 => 0x004
  | .period .ch1 => 0x008

/-- The physical address of a register (20_memory R51). -/
def regAddr (r : Reg) : Word := Config.pwmBase + regOffset r

/-- The register an access of `n` bytes at a physical address reaches; `none` for an access that is not admitted: only
`n = 4` at the three register addresses is (20_memory R57). -/
def accessReg (addr : Word) (n : Nat) : Option Reg :=
  if n ≠ 4 then none
  else if addr = regAddr .ctrl then some .ctrl
  else if addr = regAddr (.period .ch0) then some (.period .ch0)
  else if addr = regAddr (.period .ch1) then some (.period .ch1)
  else none

/-- The physical address the `OFF` operand of a raw access names: `PWM_BASE + off` (00_scope R13). -/
def offsetAddr (off : BitVec 8) : Word := Config.pwmBase + off.setWidth 32

end Sys2Proof.Machine
end

