-- ==== Sys2Proof/Machine/Ops.lean ====
section
/-! DEFINITION. The named operations every command is built from: host contexts and their controllers, the end of a
command (response, error, refusal), register access (20_memory R56, R57), the accessor's calls (R53). -/

namespace Sys2Proof.Machine

/-! ## Host contexts (10_state R32 to R34) -/

/-- The record of context `h`; a context not listed has not started, and is as it will start (70_reset R232). -/
def hostsGet : List (Nat × HostCtx) → Nat → HostCtx
  | [], _ => HostCtx.fresh
  | (k, c) :: t, h => if k = h then c else hostsGet t h

/-- Puts the record of context `h`, keeping the ids strictly rising. -/
def hostsSet : List (Nat × HostCtx) → Nat → HostCtx → List (Nat × HostCtx)
  | [], h, c => [(h, c)]
  | (k, d) :: t, h, c =>
    if h < k then (h, c) :: (k, d) :: t
    else if h = k then (h, c) :: t
    else (k, d) :: hostsSet t h c

/-- The record of context `h`. -/
def State.host (s : State) (h : Nat) : HostCtx := hostsGet s.hosts h

/-- Replaces the record of context `h`. -/
def State.setHost (s : State) (h : Nat) (c : HostCtx) : State := { s with hosts := hostsSet s.hosts h c }

/-- Replaces `ctl[h]` (10_state R34). -/
def State.setCtl (s : State) (h : Nat) (k : Ctl) : State := s.setHost h { s.host h with ctl := k }

/-- Replaces `handle[h]` by `Some(eff_base)` (10_state R32). -/
def State.setHandle (s : State) (h : Nat) (effBase : Addr) : State :=
  s.setHost h { s.host h with handle := some effBase }

/-- Context `h` stands before line `n` of `cmd` with the given locals (10_state R34). -/
def State.toLine (s : State) (h : Nat) (cmd : Instr) (n : Nat) (l : Locals) : State :=
  s.setCtl h (.busy cmd n l)

/-- Whether context `h` has no command under way. -/
def Ctl.isIdle : Ctl → Bool
  | .idle => true
  | .busy _ _ _ => false

/-! ## The end of a command (60_exceptions R203, R205, R208) -/

/-- Ends the command of context `h`: `ctl[h]` returns to `Idle` and the response is delivered (10_state R34, R36). -/
def State.finish (s : State) (h : Nat) (r : Response) : State :=
  s.setHost h { s.host h with ctl := .idle, responses := r :: (s.host h).responses }

/-- `return OK`, with the word read for RDREG (00_scope R13). -/
def State.complete (s : State) (h : Nat) (data : Option Word) : State :=
  s.finish h { status := .ok, data := data }

/-- `raise E(info)`, the block's only synchronous exception: the command ends at once with the error status, and nothing
else is saved (60_exceptions R203, R208). There is no return from it (R209). -/
def State.raise (s : State) (h : Nat) (e : Status) : State :=
  s.finish h { status := e, data := none }

/-- Records a refusal in the refusal mark (60_exceptions R205; log 7). -/
def State.mark (s : State) (r : RefuseReason) : State := { s with refusals := r :: s.refusals }

/-- `refuse R` by the command context `h` executes: the mark records the reason, and the command ends with no response
(60_exceptions R205, 30_encoding R89). -/
def State.refuse (s : State) (h : Nat) (r : RefuseReason) : State := (s.mark r).setCtl h .idle

/-- Line 0 of every command but INIT: `if handle[h] = None: raise NotInitialized()` (60_exceptions R201, R206). -/
def State.requireHandle (s : State) (h : Nat) (next : State) : State :=
  match (s.host h).handle with
  | none => s.raise h .notInitialized
  | some _ => next

/-! ## Register access (20_memory R56 to R60) -/

/-- The stored value of a register (10_state R21, R22). -/
def State.reg (s : State) : Reg → Word
  | .ctrl => s.ctrl
  | .period .ch0 => s.period0
  | .period .ch1 => s.period1

/-- The value a read of a register returns now. In CTRL the unnamed bits are storage, or a fresh draw when
`CTRL_UNNAMED_READ = draw` (10_state R24). -/
def State.regValue (s : State) : Reg → Word
  | .ctrl =>
    match s.params.unnamedRead with
    | .storage => s.ctrl
    | .draw => (s.ctrl &&& namedMask) ||| (Config.unnamedDraw s.draws &&& ~~~ namedMask)
  | .period .ch0 => s.period0
  | .period .ch1 => s.period1

/-- The state after a read: unchanged (20_memory R60), but that a read which drew a free value has used it up. -/
def State.afterRead (s : State) : Reg → State
  | .ctrl =>
    match s.params.unnamedRead with
    | .storage => s
    | .draw => { s with draws := s.draws + 1 }
  | .period _ => s

/-- `RegRead` (20_memory R56): the value read and the state after it. -/
def State.regRead (s : State) (r : Reg) : Word × State := (s.regValue r, s.afterRead r)

/-- `RegWrite` (20_memory R56): the register takes the 32-bit value; nothing else changes (R60). -/
def State.regWrite (s : State) (r : Reg) (v : Word) : State :=
  match r with
  | .ctrl => { s with ctrl := v }
  | .period .ch0 => { s with period0 := v }
  | .period .ch1 => { s with period1 := v }

/-- `MemRead(addr, n)` (00_scope R13); `none` where the access is not admitted (20_memory R57). -/
def State.memRead (s : State) (addr : Word) (n : Nat) : Option (Word × State) :=
  (accessReg addr n).map s.regRead

/-- `MemWrite(addr, n, v)` (00_scope R13); `none` where the access is not admitted (20_memory R57). -/
def State.memWrite (s : State) (addr : Word) (n : Nat) (v : Word) : Option State :=
  (accessReg addr n).map fun r => s.regWrite r v

/-- Byte `k` of a word, least significant first (20_memory R58). -/
def wordByte (w : Word) (k : Nat) : Byte := w.extractLsb' (8 * k) 8

/-- The byte of the register file at a physical address, little-endian (20_memory R58); `none` where no register lies
(R52). A view of the stored words: the block admits no byte access (R57). -/
def State.physByte (s : State) (addr : Nat) : Option Byte :=
  let off := addr - Config.pwmBase.toNat
  if addr < Config.pwmBase.toNat ∨ 12 ≤ off then none
  else if off < 4 then some (wordByte s.ctrl off)
  else if off < 8 then some (wordByte s.period0 (off - 4))
  else some (wordByte s.period1 (off - 8))

/-! ## The address-space accessor (20_memory R53) -/

/-- `Accessor.open()`: the next answer the outside world holds ready, or else a free value (log 4). -/
def State.accessorOpen (s : State) : OpenAnswer × State :=
  match s.openAnswers with
  | a :: rest => (a, { s with openAnswers := rest })
  | [] => (Config.openDraw s.draws, { s with draws := s.draws + 1 })

/-- `Accessor.map(start, len)`: the next answer the outside world holds ready, or else a free value (log 4). -/
def State.accessorMap (s : State) : MapAnswer × State :=
  match s.mapAnswers with
  | a :: rest => (a, { s with mapAnswers := rest })
  | [] => (Config.mapDraw s.draws, { s with draws := s.draws + 1 })

/-- `Accessor.close()`: "it always succeeds", and no state of the block depends on it (20_memory R53,
40_initialize R104). -/
def State.accessorClose (s : State) : State := s

end Sys2Proof.Machine
end

