-- ==== Sys2Proof/Machine/Run.lean ====
section
/-! DEFINITION. Running a command: a command is a body that executes its labelled line `n` for context `h`
(10_state R34); run alone, its lines follow one another with no line of another context between them (20_memory R61). -/

namespace Sys2Proof.Machine

/-- One labelled line of a command: given the context, the number of the line and the locals, the state after it. -/
abbrev Body := Nat → Nat → Locals → State → State

/-- Executes up to `k` lines of the command context `h` has under way. -/
def runLines (body : Body) (h : Nat) : Nat → State → State
  | 0, s => s
  | k + 1, s =>
    match (s.host h).ctl with
    | .idle => s
    | .busy _ n l => runLines body h k (body h n l s)

/-- Issues `cmd` for context `h`: `ctl[h]` moves from `Idle` to `Busy(cmd, 1, {})` (10_state R34). -/
def State.issue (s : State) (h : Nat) (cmd : Instr) : State := s.toLine h cmd 1 {}

/-- Issues `cmd` for the context `cur` and runs its `k` lines, no other context moving meanwhile (log 21). A context
that is Busy cannot issue one (60_exceptions R209; log 8). -/
def runCommand (cmd : Instr) (body : Body) (k : Nat) (s : State) : Host.Outcome State Fault Refusal :=
  match (s.host s.cur).ctl with
  | .idle => .next (runLines body s.cur k (s.issue s.cur cmd))
  | .busy _ _ _ => .refused .commandWhileBusy

end Sys2Proof.Machine
end

