-- ==== Sys2Proof/Machine/Tpe.lean ====
section
/-! DEFINITION. The timing-parameter encoder (42_encoder R120 to R136), exact on natural numbers with truncating
division (00_scope R12; log 16). -/

namespace Sys2Proof.Machine

/-- `PRESCALER_TABLE` (10_state R28); 0 is the sentinel. -/
def prescalerTable : List Nat :=
  [120, 180, 240, 360, 480, 0, 0, 0, 12000, 24000, 36000, 48000, 72000, 0, 0, 0]

/-- The divisor at an index of the table (30_encoding R79). -/
def divisor (i : Nat) : Nat := prescalerTable.getD i 0

/-- `REF_CLK_HZ` (00_scope R8). -/
def refClkHz : Nat := 24000000

/-- `NS_PER_S` (00_scope R8). -/
def nsPerS : Nat := 1000000000

/-- `SEARCH_LAST`: the search visits the indices 0 to 14 (00_scope R8, 42_encoder R122). -/
def searchLast : Nat := 14

/-- `f = REF_CLK_HZ / d`, truncated (42_encoder R123). -/
def dividedFreq (i : Nat) : Nat := refClkHz / divisor i

/-- `t = (f * period_ns) / NS_PER_S`, the product first (42_encoder R124). -/
def tickCount (i periodNs : Nat) : Nat := dividedFreq i * periodNs / nsPerS

/-- Whether a candidate is accepted: not a sentinel, and `1 <= t` with `t - 1 <= 65535` (42_encoder R120, R125). -/
def accepts (i periodNs : Nat) : Bool :=
  divisor i != 0 && decide (1 ≤ tickCount i periodNs) && decide (tickCount i periodNs - 1 ≤ 65535)

/-- What the TPE answers on success (42_encoder R120). -/
structure TpeResult where
  idx         : BitVec 4
  periodTicks : Nat
  dutyTicks   : Nat
  word        : Word
deriving DecidableEq, Repr

/-- The result for a winning index: `duty_ticks = (t * duty_ns) / period_ns`, the product first (42_encoder R130). -/
def tpeResult (periodNs dutyNs i : Nat) : TpeResult :=
  let t := tickCount i periodNs
  let d := t * dutyNs / periodNs
  { idx := BitVec.ofNat 4 i, periodTicks := t, dutyTicks := d, word := pack t d }

/-- The TPE (42_encoder R120): the first accepted index in ascending order wins (R126); `none` is
`PeriodUnrepresentable` (R127). -/
def tpe (periodNs dutyNs : Nat) : Option TpeResult :=
  ((List.range (searchLast + 1)).find? fun i => accepts i periodNs).map (tpeResult periodNs dutyNs)

end Sys2Proof.Machine
end

