-- ==== Sys2Proof/Machine/Configure.lean ====
section
/-! DEFINITION. CONFIG, the Period/Duty Configurator (43_configure R150 to R164). -/

namespace Sys2Proof.Machine

/-- The labelled lines of CONFIG (43_configure R150). Steps 1 to 12 are the pseudocode's lines 0, 0p, 1, 2, 3a, 3b, 4a,
4b, 5, 6a, 6b, 7; with `g = 0` the lines 6a and 6b make no access (R158; log 12). -/
def lineConfig (ch : Channel) (periodNs dutyNs : BitVec 64) (h n : Nat) (l : Locals) (s : State) : State :=
  let cmd := Instr.config ch periodNs dutyNs
  match n with
  | 1 => s.requireHandle h (s.toLine h cmd 2 l)
  | 2 => if periodNs = 0 then s.refuse h .periodZero else s.toLine h cmd 3 l
  | 3 =>
    match tpe periodNs.toNat dutyNs.toNat with
    | none => s.raise h .periodUnrepresentable
    | some r => s.toLine h cmd 4 { l with idx := r.idx, word := r.word }
  | 4 => let r := s.regRead .ctrl; r.2.toLine h cmd 5 { l with v := r.1, g := gate r.1 ch }
  | 5 => let r := s.regRead .ctrl; r.2.toLine h cmd 6 { l with v := r.1 }
  | 6 => (s.regWrite .ctrl (l.v &&& ~~~ (prescMask ch ||| gateBit ch))).toLine h cmd 7 l
  | 7 => let r := s.regRead .ctrl; r.2.toLine h cmd 8 { l with v := r.1 }
  | 8 => (s.regWrite .ctrl (l.v ||| prescAt ch l.idx)).toLine h cmd 9 l
  | 9 => (s.regWrite (.period ch) l.word).toLine h cmd 10 l
  | 10 =>
    if l.g then let r := s.regRead .ctrl; r.2.toLine h cmd 11 { l with v := r.1 }
    else s.toLine h cmd 11 l
  | 11 =>
    if l.g then (s.regWrite .ctrl (l.v ||| gateBit ch)).toLine h cmd 12 l
    else s.toLine h cmd 12 l
  | _ => s.complete h none

/-- CONFIG (43_configure R150). -/
def execConfig (ch : Channel) (periodNs dutyNs : BitVec 64) (s : State) : Host.Outcome State Fault Refusal :=
  runCommand (.config ch periodNs dutyNs) (lineConfig ch periodNs dutyNs) 12 s

end Sys2Proof.Machine
end

