-- ==== Sys2Proof/Machine/Enable.lean ====
section
/-! DEFINITION. ENABLE and DISABLE (44_enable R170 to R177). -/

namespace Sys2Proof.Machine

/-- The labelled lines of ENABLE (44_enable R170): step `n` is the pseudocode's line `n - 1`. -/
def lineEnable (ch : Channel) (h n : Nat) (l : Locals) (s : State) : State :=
  let cmd := Instr.enable ch
  match n with
  | 1 => s.requireHandle h (s.toLine h cmd 2 l)
  | 2 => let r := s.regRead .ctrl; r.2.toLine h cmd 3 { l with v := r.1 }
  | 3 => (s.regWrite .ctrl (l.v ||| enBit ch ||| gateBit ch)).toLine h cmd 4 l
  | _ => s.complete h none

/-- ENABLE (44_enable R170). -/
def execEnable (ch : Channel) (s : State) : Host.Outcome State Fault Refusal :=
  runCommand (.enable ch) (lineEnable ch) 4 s

/-- The labelled lines of DISABLE (44_enable R171): step `n` is the pseudocode's line `n - 1`. -/
def lineDisable (ch : Channel) (h n : Nat) (l : Locals) (s : State) : State :=
  let cmd := Instr.disable ch
  match n with
  | 1 => s.requireHandle h (s.toLine h cmd 2 l)
  | 2 => let r := s.regRead .ctrl; r.2.toLine h cmd 3 { l with v := r.1 }
  | 3 => (s.regWrite .ctrl (l.v &&& ~~~ (enBit ch ||| gateBit ch))).toLine h cmd 4 l
  | _ => s.complete h none

/-- DISABLE (44_enable R171). -/
def execDisable (ch : Channel) (s : State) : Host.Outcome State Fault Refusal :=
  runCommand (.disable ch) (lineDisable ch) 4 s

end Sys2Proof.Machine
end

