-- ==== Sys2Proof/Machine/Mapping.lean ====
section
/-! DEFINITION. The mapping arithmetic of the initializer and the translation through a handle (20_memory R54, R55). -/

namespace Sys2Proof.Machine

/-- `page_aligned_start = base & ~(PAGE_SIZE - 1)` (20_memory R54). -/
def mapStart (pageSize : Nat) : Word := Config.pwmBase &&& ~~~ BitVec.ofNat 32 (pageSize - 1)

/-- `offset = base & (PAGE_SIZE - 1)` (20_memory R54). -/
def mapOffset (pageSize : Nat) : Word := Config.pwmBase &&& BitVec.ofNat 32 (pageSize - 1)

/-- `len = 2 * PAGE_SIZE` (20_memory R54). -/
def mapLen (pageSize : Nat) : Nat := Config.mapPages * pageSize

/-- `eff_base = mapped + offset` (20_memory R54), on natural numbers (log 5). -/
def effBase (mapped : Addr) (offset : Word) : Addr := mapped + offset.toNat

/-- The mapped address of a mapping given by its page (20_memory R53: a multiple of `PAGE_SIZE`). -/
def mappedAddr (pageSize page : Nat) : Addr := page * pageSize

/-- The physical address that a virtual address of context `h` designates: `PWM_BASE + off` for `eff_base + off`, for
every `off` with `offset + off < len`, while the context has a handle (20_memory R55). DESIGN CHOICE (log 22): `none` says
that R55 gives the address no meaning through the current handle, not that the address reaches nothing; an address of an
earlier mapping, which a later INIT replaced, is one such. -/
def State.translate (s : State) (h : Nat) (va : Addr) : Option Nat :=
  match (s.host h).handle with
  | none => none
  | some e =>
    if e ≤ va ∧ (mapOffset s.params.pageSize).toNat + (va - e) < mapLen s.params.pageSize then
      some (Config.pwmBase.toNat + (va - e))
    else none

end Sys2Proof.Machine
end

