-- ==== Sys2Proof/Machine/Init.lean ====
section
/-! DEFINITION. INIT, the Peripheral Initializer (40_initialize R100 to R104). -/

namespace Sys2Proof.Machine

/-- The labelled lines of INIT (40_initialize R100), line `n` being the pseudocode's line `n`. -/
def lineInit (h n : Nat) (l : Locals) (s : State) : State :=
  match n with
  | 1 =>
    let r := s.accessorOpen
    match r.1 with
    | .err e => r.2.raise h (.accessDenied e)
    | .ok => r.2.toLine h .init 2 l
  | 2 => s.toLine h .init 3 { l with pageSize := s.params.pageSize }
  | 3 => s.toLine h .init 4 { l with start := mapStart l.pageSize, offset := mapOffset l.pageSize }
  | 4 =>
    let r := s.accessorMap
    match r.1 with
    | .err e => r.2.raise h (.mappingFailed e)
    | .ok page => r.2.toLine h .init 5 { l with mapped := mappedAddr l.pageSize page }
  | 5 => (s.setHandle h (effBase l.mapped l.offset)).toLine h .init 6 l
  | 6 => s.accessorClose.toLine h .init 7 l
  | _ => s.complete h none

/-- INIT (40_initialize R100). -/
def execInit (s : State) : Host.Outcome State Fault Refusal := runCommand .init lineInit 7 s

end Sys2Proof.Machine
end

