-- ==== Sys2Proof/Machine/Polarity.lean ====
section
/-! DEFINITION. SETPOL, the Polarity Setter (41_polarity R110 to R114). -/

namespace Sys2Proof.Machine

/-- The labelled lines of SETPOL (41_polarity R110): step `n` is the pseudocode's line `n - 1`. -/
def lineSetpol (ch : Channel) (pol : Polarity) (h n : Nat) (l : Locals) (s : State) : State :=
  let cmd := Instr.setpol ch pol
  match n with
  | 1 => s.requireHandle h (s.toLine h cmd 2 l)
  | 2 => let r := s.regRead .ctrl; r.2.toLine h cmd 3 { l with v := r.1 }
  | 3 => (s.regWrite .ctrl (withBit l.v (actBit ch) (Polarity.act pol))).toLine h cmd 4 l
  | _ => s.complete h none

/-- SETPOL (41_polarity R110). -/
def execSetpol (ch : Channel) (pol : Polarity) (s : State) : Host.Outcome State Fault Refusal :=
  runCommand (.setpol ch pol) (lineSetpol ch pol) 4 s

end Sys2Proof.Machine
end

