-- ==== Sys2Proof/Machine/RegAccess.lean ====
section
/-! DEFINITION. RDREG and WRREG, raw register access (45_register_access R180 to R184). -/

namespace Sys2Proof.Machine

/-- The labelled lines of RDREG (45_register_access R180): step `n` is the pseudocode's line `n - 1`. An access that
names no register is refused `BadAccess` (20_memory R57; log 20). -/
def lineRdreg (off : BitVec 8) (h n : Nat) (l : Locals) (s : State) : State :=
  let cmd := Instr.rdreg off
  match n with
  | 1 => s.requireHandle h (s.toLine h cmd 2 l)
  | 2 =>
    match s.memRead (offsetAddr off) 4 with
    | none => s.refuse h .badAccess
    | some r => r.2.toLine h cmd 3 { l with data := r.1 }
  | _ => s.complete h (some l.data)

/-- RDREG (45_register_access R180). -/
def execRdreg (off : BitVec 8) (s : State) : Host.Outcome State Fault Refusal :=
  runCommand (.rdreg off) (lineRdreg off) 3 s

/-- The labelled lines of WRREG (45_register_access R181): step `n` is the pseudocode's line `n - 1`. -/
def lineWrreg (off : BitVec 8) (data : Word) (h n : Nat) (l : Locals) (s : State) : State :=
  let cmd := Instr.wrreg off data
  match n with
  | 1 => s.requireHandle h (s.toLine h cmd 2 l)
  | 2 =>
    match s.memWrite (offsetAddr off) 4 data with
    | none => s.refuse h .badAccess
    | some t => t.toLine h cmd 3 l
  | _ => s.complete h none

/-- WRREG (45_register_access R181). -/
def execWrreg (off : BitVec 8) (data : Word) (s : State) : Host.Outcome State Fault Refusal :=
  runCommand (.wrreg off data) (lineWrreg off data) 3 s

end Sys2Proof.Machine
end

