-- ==== Sys2Proof/Machine/Lines.lean ====
section
/-! DEFINITION. Commands line by line, for contexts whose lines interleave (20_memory R62), and the end of a context
(70_reset R233). -/

namespace Sys2Proof.Machine

/-- The body of each command: its labelled lines (10_state R34). -/
def line (cmd : Instr) : Body :=
  match cmd with
  | .init => lineInit
  | .setpol ch pol => lineSetpol ch pol
  | .config ch p d => lineConfig ch p d
  | .enable ch => lineEnable ch
  | .disable ch => lineDisable ch
  | .rdreg off => lineRdreg off
  | .wrreg off data => lineWrreg off data

/-- How many labelled lines a command has (R100, R110, R150, R170, R171, R180, R181; at most 12, 70_reset R245). -/
def lineCount : Instr → Nat
  | .init => 7
  | .setpol _ _ => 4
  | .config _ _ _ => 12
  | .enable _ => 4
  | .disable _ => 4
  | .rdreg _ => 3
  | .wrreg _ _ => 3

/-- Context `h` executes the next line of its command; an idle context has none to execute (20_memory R62). -/
def State.advance (s : State) (h : Nat) : State :=
  match (s.host h).ctl with
  | .idle => s
  | .busy cmd n l => line cmd h n l s

/-- Context `h` ends: its handle and controller state vanish and the registers keep their values (70_reset R233); the
responses it received stay recorded (70_reset R246; log 18). -/
def State.exitHost (s : State) (h : Nat) : State :=
  s.setHost h { HostCtx.fresh with responses := (s.host h).responses }

/-- The event at the head of the input is taken: it leaves the input, and `h` is the context that acts. -/
def State.take (s : State) (h : Nat) (rest : List Event) : State := { s with input := rest, cur := h }

/-- Context `h` cannot issue its next command yet: the command stays in the input, and the context executes the next
line of the one it has under way (20_memory R61, 10_state R33; log 8). -/
def State.waitBusy (s : State) (h : Nat) : State := { s with cur := h }.advance h

/-- A delivered command that does not decode performs no step and changes no state but the mark (30_encoding R86,
60_exceptions R205). -/
def State.refuseDecode (s : State) (r : IllegalReason) : State := s.mark (.illegalCommand r)

end Sys2Proof.Machine
end

