-- ==== Sys2Proof/Machine/Dispatch.lean ====
section
/-! DEFINITION. The meaning of each command, run as a whole for the context `cur`. -/

namespace Sys2Proof.Machine

def exec (i : Instr) (s : State) : Host.Outcome State Fault Refusal :=
  match i with
  | .init => Sys2Proof.Machine.execInit s
  | .setpol ch pol => Sys2Proof.Machine.execSetpol ch pol s
  | .config ch p d => Sys2Proof.Machine.execConfig ch p d s
  | .enable ch => Sys2Proof.Machine.execEnable ch s
  | .disable ch => Sys2Proof.Machine.execDisable ch s
  | .rdreg off => Sys2Proof.Machine.execRdreg off s
  | .wrreg off data => Sys2Proof.Machine.execWrreg off data s

end Sys2Proof.Machine
end

