-- ==== Sys2Proof/Machine/Event.lean ====
section
/-! DEFINITION. What one event of the input does (20_memory R61, R62; log 9). -/

namespace Sys2Proof.Machine

/-- The host context an event belongs to. -/
def Event.host : Event → Nat
  | .command h _ => h
  | .issue h _ => h
  | .advance h => h
  | .exit h => h

/-- What the event at the head of the input does, when its context is one of HOSTS; `rest` is the input after it. A
command is decoded before its first line (30_encoding R86); a context that is still Busy finishes its command first
(20_memory R61). -/
def State.runEvent (s : State) (e : Event) (rest : List Event) : Host.Outcome State Fault Refusal :=
  match e with
  | .command h ws =>
    match (s.host h).ctl with
    | .busy _ _ _ => .next (s.waitBusy h)
    | .idle =>
      match decode ws with
      | .error r => .next ((s.take h rest).refuseDecode r)
      | .ok i => exec i (s.take h rest)
  | .issue h ws =>
    match (s.host h).ctl with
    | .busy _ _ _ => .next (s.waitBusy h)
    | .idle =>
      match decode ws with
      | .error r => .next ((s.take h rest).refuseDecode r)
      | .ok i => .next ((s.take h rest).issue h i)
  | .advance h => .next ((s.take h rest).advance h)
  | .exit h => .next ((s.take h rest).exitHost h)

/-- No context of HOSTS has the number of the event: the event is dropped, nothing else moves (60_exceptions R213: the
identifiers of the contexts are the elements of HOSTS). DESIGN CHOICE (log 3). -/
def State.dropEvent (s : State) (rest : List Event) : State := { s with input := rest }

end Sys2Proof.Machine
end

