-- ==== Sys2Proof/Machine/Step.lean ====
section
/-! DEFINITION. One step of the machine: it takes the event at the head of the input (log 9). -/

namespace Sys2Proof.Machine

/-- One step. With no input nothing moves: every context waits (70_reset R246; log 9). Only the contexts of HOSTS act
(60_exceptions R213; log 3). -/
def step (s : State) : Host.Outcome State Fault Refusal :=
  match s.input with
  | [] => .next s
  | e :: rest => if e.host ∈ s.params.hosts then s.runEvent e rest else .next (s.dropEvent rest)

/-- The state in which the next step decodes and runs the instruction with these bits, numbered as the opcode table
numbers them, for the context `cur`: that context, its controller idle, is about to issue it. -/
def State.withFetchWord (s : State) (nbits w : Nat) : State :=
  let s' := if (s.host s.cur).ctl.isIdle then s else s.setCtl s.cur .idle
  { s' with input := .command s.cur (tableWords nbits w) :: s.input }

end Sys2Proof.Machine
end

