-- ==== Sys2Proof/Machine/Counter.lean ====
section
/-! DEFINITION. What the registers say about the channel counters (60_exceptions R215 to R219). The counter itself is no
field of State (10_state R39; log 13): no command reads it. -/

namespace Sys2Proof.Machine

/-- The stored PERIOD word of a channel. -/
def State.period (s : State) (ch : Channel) : Word := s.reg (.period ch)

/-- Whether channel `ch`'s counter runs: exactly when `EN[ch] = 1` and `GATE[ch] = 1` (60_exceptions R215). -/
def State.running (s : State) (ch : Channel) : Bool := en s.ctrl ch && gate s.ctrl ch

/-- Whether a prescaler index is valid, that is, no sentinel (30_encoding R79). -/
def validPresc (i : BitVec 4) : Bool := divisor i.toNat != 0

/-- Ticks per second: exact at a valid index; with a sentinel index a free value (60_exceptions R216, I2; log 13). -/
def tickRate (i : BitVec 4) : Rat :=
  if validPresc i then (refClkHz : Rat) / (divisor i.toNat : Rat) else Config.sentinelTickRate i

/-- How long a tick lasts, in ns (60_exceptions R219); with a sentinel index a free value (R216, I2; log 13). -/
def tickNs (i : BitVec 4) : Rat :=
  if validPresc i then (divisor i.toNat : Rat) * 125 / 3 else Config.sentinelTickNs i

/-- The achieved period of a channel in ns (60_exceptions R217, R219). R219 speaks of a running channel; DESIGN CHOICE
(log 13): for a channel that is not running this is the period its registers give once it runs. -/
def State.achievedPeriodNs (s : State) (ch : Channel) : Rat :=
  ((unpack (s.period ch)).1 : Rat) * tickNs (presc s.ctrl ch)

/-- The achieved active time of a channel in ns (60_exceptions R217, R219). R219 speaks of a running channel; DESIGN
CHOICE (log 13): for a channel that is not running this is the time its registers give once it runs. -/
def State.achievedActiveNs (s : State) (ch : Channel) : Rat :=
  ((unpack (s.period ch)).2 : Rat) * tickNs (presc s.ctrl ch)

/-- The output polarity `ACT[ch]` selects: 1 = normal, 0 = inverted (60_exceptions R218). -/
def State.polarity (s : State) (ch : Channel) : Polarity := if act s.ctrl ch then .normal else .inverted

/-- A write that takes CTRL from `before` to `after` is the glitch hazard on channel `ch`: it changes `PRESC[ch]` while
`GATE[ch]` is 1 both before and after (70_reset R240). -/
def glitch (before after : Word) (ch : Channel) : Bool :=
  gate before ch && gate after ch && presc before ch != presc after ch

end Sys2Proof.Machine
end

