-- ==== Sys2Proof/Safety.lean ====
section
/-! DEFINITION. What counts as a safe run, and the invariant of the machine, in the terms claims use. -/

namespace Sys2Proof.Machine

/-- No refusal is recorded: the mark is kept for the rest of the run, so a marked run is never safe
(60_exceptions R205). -/
def State.unmarked (s : State) : Prop := s.refusals = []

/-- The ids of the listed contexts are strictly rising: equal maps of contexts are equal lists. -/
def hostsSorted (l : List (Nat × HostCtx)) : Prop := (l.map Prod.fst).Pairwise (· < ·)

/-- What holds of a busy controller, line by line: the command is well formed and its next line is one of its lines;
past the handle check its context has a handle (60_exceptions R206); past line 1 of CONFIG the period is not zero and
the locals hold the TPE's result (43_configure R150), and INIT's locals hold the mapping arithmetic
(40_initialize R100). -/
def Ctl.ok (handle : Option Addr) (p : Params) : Ctl → Prop
  | .idle => True
  | .busy cmd n l =>
    cmd.wf = true ∧ 1 ≤ n ∧ n ≤ lineCount cmd ∧
    (cmd ≠ .init → 2 ≤ n → handle ≠ none) ∧
    (cmd = .init → 6 ≤ n → handle ≠ none) ∧
    (cmd = .init → 3 ≤ n → l.pageSize = p.pageSize) ∧
    (cmd = .init → 4 ≤ n → l.start = mapStart p.pageSize ∧ l.offset = mapOffset p.pageSize) ∧
    (∀ ch periodNs dutyNs, cmd = .config ch periodNs dutyNs → 3 ≤ n → periodNs ≠ 0) ∧
    (∀ ch periodNs dutyNs, cmd = .config ch periodNs dutyNs → 4 ≤ n →
      ∃ r, tpe periodNs.toNat dutyNs.toNat = some r ∧ l.idx = r.idx ∧ l.word = r.word)

/-- Only contexts of HOSTS are listed, and the context a command is run for is one of them (60_exceptions R213). -/
def State.hostsKnown (s : State) : Prop :=
  s.cur ∈ s.params.hosts ∧ ∀ x ∈ s.hosts, x.1 ∈ s.params.hosts

/-- The invariant of the machine: the contexts are in canonical order and elements of HOSTS, and every controller is as
its command's pseudocode leaves it. -/
def State.Inv (s : State) : Prop :=
  hostsSorted s.hosts ∧ s.hostsKnown ∧ ∀ h, (s.host h).ctl.ok (s.host h).handle s.params

end Sys2Proof.Machine
end

