-- ==== Sys2Proof/Certificates/Slice0/Obligations.lean ====
section
/-! DEFINITION. The statements for the provers. OBLIGATIONS.json says of each which rule of spec/ it formalises. -/

open Sys2Proof Sys2Proof.Machine

/-! ## Words the statements share -/

/-- The context `cur` has no command under way (60_exceptions R209). -/
def Sys2Proof.Claims.ready (s : State) : Prop := (s.host s.cur).ctl = .idle

/-- The context `cur` holds a handle (60_exceptions R201). -/
def Sys2Proof.Claims.mapped (s : State) : Prop := (s.host s.cur).handle ≠ none

/-- The contexts after the command of `cur` ended with the response `r`, no handle written (60_exceptions R203). -/
def Sys2Proof.Claims.responded (s : State) (r : Response) : List (Nat × HostCtx) :=
  hostsSet s.hosts s.cur { s.host s.cur with ctl := .idle, responses := r :: (s.host s.cur).responses }

/-- The response of a command that ended with status OK and returns no word (10_state R36). -/
def Sys2Proof.Claims.okResponse : Response := { status := .ok, data := none }

/-- The response of a command for whose period no candidate fits (60_exceptions R200). -/
def Sys2Proof.Claims.unrepresentableResponse : Response := { status := .periodUnrepresentable, data := none }

/-- The bits of CTRL a command may change (10_state R26). -/
def Sys2Proof.Claims.ctrlWriteMask : Instr → Word
  | .init => 0
  | .setpol ch _ => actBit ch
  | .config ch _ _ => prescMask ch ||| gateBit ch
  | .enable ch => enBit ch ||| gateBit ch
  | .disable ch => enBit ch ||| gateBit ch
  | .rdreg _ => 0
  | .wrreg off _ => if off = 0x00 then 0xFFFFFFFF else 0

/-- The registers a command stores to when it runs to its end (10_state R26). -/
def Sys2Proof.Claims.storesTo : Instr → List Reg
  | .init => []
  | .setpol _ _ => [.ctrl]
  | .config ch _ _ => [.ctrl, .period ch]
  | .enable _ => [.ctrl]
  | .disable _ => [.ctrl]
  | .rdreg _ => []
  | .wrreg off _ => (accessReg (offsetAddr off) 4).toList

open Sys2Proof.Claims

/-! ## Encoding -/

/-- Decoding the words of a well-formed command gives the command back, for every operand value. -/
def Obligations.DecodeOfEncodeIsIdentity : Prop :=
  ∀ i : Instr, i.wf = true → decode (encode i) = .ok i

/-- A list of words that decodes is the one encoding of a well-formed command: no bit of it is ignored. -/
def Obligations.DecodedWordsAreTheEncoding : Prop :=
  ∀ (ws : List Word) (i : Instr), decode ws = .ok i → i.wf = true ∧ encode i = ws

/-- 30_encoding R86: which command words are refused, for which reason and in which order, read off the number the
command word is. A word that passes is refused for its operand count alone (the model's own reason, log 10). -/
def Obligations.DecodeRefusesInOrder : Prop :=
  ∀ (cw : Word) (ops : List Word),
    let n := cw.toNat
    let op := n % 16
    let reserved := n / 65536 ≠ 0 ∨ n / 64 % 4 ≠ 0 ∨ (op ≠ 2 ∧ n / 32 % 2 ≠ 0) ∨
      ((op = 1 ∨ op = 6 ∨ op = 7) ∧ n / 16 % 2 ≠ 0) ∨ (op ≠ 6 ∧ op ≠ 7 ∧ n / 256 % 256 ≠ 0)
    let badOff := (op = 6 ∨ op = 7) ∧ n / 256 % 256 ≠ 0 ∧ n / 256 % 256 ≠ 4 ∧ n / 256 % 256 ≠ 8
    ((op = 0 ∨ 8 ≤ op) → decode (cw :: ops) = .error .reservedOpcode) ∧
    (1 ≤ op → op ≤ 7 → reserved → decode (cw :: ops) = .error .nonZeroReserved) ∧
    (1 ≤ op → op ≤ 7 → ¬ reserved → badOff → decode (cw :: ops) = .error .badOffset) ∧
    (1 ≤ op → op ≤ 7 → ¬ reserved → ¬ badOff → ops.length + 1 = wordCount cw →
      ∃ i, decode (cw :: ops) = .ok i) ∧
    (1 ≤ op → op ≤ 7 → ¬ reserved → ¬ badOff → ops.length + 1 ≠ wordCount cw →
      decode (cw :: ops) = .error .operandCount)

/-- 30_encoding R87: match and mask per opcode. -/
def Obligations.MatchAndMaskPerOpcode : Prop :=
  ∀ cw : Word,
    (decode [cw] = .ok .init ↔ cw &&& 0xFFFFFFFF = 0x00000001) ∧
    ((∃ ch pol, decode [cw] = .ok (.setpol ch pol)) ↔ cw &&& 0xFFFFFFCF = 0x00000002) ∧
    (∀ p0 p1 d0 d1, (∃ ch p d, decode [cw, p0, p1, d0, d1] = .ok (.config ch p d)) ↔
      cw &&& 0xFFFFFFEF = 0x00000003) ∧
    ((∃ ch, decode [cw] = .ok (.enable ch)) ↔ cw &&& 0xFFFFFFEF = 0x00000004) ∧
    ((∃ ch, decode [cw] = .ok (.disable ch)) ↔ cw &&& 0xFFFFFFEF = 0x00000005) ∧
    ((∃ off, decode [cw] = .ok (.rdreg off)) ↔
      cw &&& 0xFFFF00FF = 0x00000006 ∧ (cw.toNat / 256 % 256 = 0x00 ∨ cw.toNat / 256 % 256 = 0x04 ∨
        cw.toNat / 256 % 256 = 0x08)) ∧
    (∀ d, (∃ off data, decode [cw, d] = .ok (.wrreg off data)) ↔
      cw &&& 0xFFFF00FF = 0x00000007 ∧ (cw.toNat / 256 % 256 = 0x00 ∨ cw.toNat / 256 % 256 = 0x04 ∨
        cw.toNat / 256 % 256 = 0x08))

/-- 30_encoding R91: the encoding examples, the 64-bit operands as two words with the low one first (log 10). -/
def Obligations.EncodingExamplesDecode : Prop :=
  decode [0x00000001] = .ok .init ∧
  decode [0x00000022] = .ok (.setpol .ch0 .normal) ∧
  decode [0x00000012] = .ok (.setpol .ch1 .inverted) ∧
  decode [0x00000032] = .ok (.setpol .ch1 .normal) ∧
  decode [0x00000003, 0x01312D00, 0, 0x0016E360, 0] = .ok (.config .ch0 20000000 1500000) ∧
  decode [0x00000013, 0xD2A8D340, 0x0000002D, 0, 0] = .ok (.config .ch1 196807807808 0) ∧
  decode [0x00000004] = .ok (.enable .ch0) ∧
  decode [0x00000014] = .ok (.enable .ch1) ∧
  decode [0x00000015] = .ok (.disable .ch1) ∧
  decode [0x00000006] = .ok (.rdreg 0x00) ∧
  decode [0x00000806] = .ok (.rdreg 0x08) ∧
  decode [0x00000407, 0x0F9F012C] = .ok (.wrreg 0x04 0x0F9F012C)

/-! ## Fields and packing -/

/-- 30_encoding R74 and R73: inserting a field changes only the bits of its own mask, and extracting it reads what was
inserted; the last clause is `with_bit` for any mask. -/
def Obligations.FieldInsertionChangesOnlyItsMask : Prop :=
  ∀ (v : Word) (ch : Channel) (i : BitVec 4) (b : Bool),
    presc (withPresc v ch i) ch = i ∧
    (withPresc v ch i ^^^ v) &&& ~~~ prescMask ch = 0 ∧
    en (withBit v (enBit ch) b) ch = b ∧
    act (withBit v (actBit ch) b) ch = b ∧
    gate (withBit v (gateBit ch) b) ch = b ∧
    ∀ m : Word, withBit v m b &&& m = (if b then m else 0) ∧ (withBit v m b ^^^ v) &&& ~~~ m = 0

/-- 30_encoding R71: channel `ch`'s fields lie in bits `15*ch + 6` down to `15*ch`, and the two ranges do not overlap; the
masks have the values of the table of R72. -/
def Obligations.ChannelFieldsDoNotOverlap : Prop :=
  (∀ ch : Channel, prescMask ch ||| enBit ch ||| actBit ch ||| gateBit ch = chMask ch) ∧
  (∀ (ch : Channel) (k : Nat), (chMask ch).getLsbD k = (decide (15 * chNum ch ≤ k) && decide (k ≤ 15 * chNum ch + 6))) ∧
  chMask .ch0 &&& chMask .ch1 = 0 ∧
  [prescMask .ch0, enBit .ch0, actBit .ch0, gateBit .ch0, chMask .ch0] =
    [0x0000000F, 0x00000010, 0x00000020, 0x00000040, 0x0000007F] ∧
  [prescMask .ch1, enBit .ch1, actBit .ch1, gateBit .ch1, chMask .ch1] =
    [0x00078000, 0x00080000, 0x00100000, 0x00200000, 0x003F8000]

/-- 30_encoding R78: packing and unpacking a period word are inverse to each other on the domain the rule gives. -/
def Obligations.PackUnpackRoundTrip : Prop :=
  (∀ t d : Nat, 1 ≤ t → t ≤ 65536 → d ≤ 65535 → unpack (pack t d) = (t, d)) ∧
  (∀ w : Word, pack (unpack w).1 (unpack w).2 = w)

/-! ## The timing-parameter encoder -/

/-- 42_encoder R129: the winning index as a function of the period, the divisors, and the tick count at the ends of each
range; below 5000 ns every tick count is 0. -/
def Obligations.WinningIndexByPeriodRange : Prop :=
  [0, 1, 2, 3, 4, 8, 9, 10, 11, 12].map divisor =
    [120, 180, 240, 360, 480, 12000, 24000, 36000, 48000, 72000] ∧
  (∀ p i : Nat, p ≤ 4999 → i ≤ 14 → tickCount i p = 0) ∧
  (∀ p d : Nat, 1 ≤ p → p < 2 ^ 64 →
    (tpe p d).map (fun r => r.idx.toNat) =
      if p ≤ 4999 then none
      else if p ≤ 327684999 then some 0
      else if p ≤ 491528728 then some 1
      else if p ≤ 655369999 then some 2
      else if p ≤ 983064830 then some 3
      else if p ≤ 1310739999 then some 4
      else if p ≤ 32768499999 then some 8
      else if p ≤ 65536999999 then some 9
      else if p ≤ 98403903903 then some 10
      else if p ≤ 131073999999 then some 11
      else if p ≤ 196807807807 then some 12
      else none) ∧
  ∀ d p t : Nat, (p, t) ∈ [(5000, 1), (327685000, 43691), (491528729, 49152), (655370000, 43690), (983064831, 49153),
      (1310740000, 2621), (32768500000, 32768), (65537000000, 43647), (98403903904, 49201), (131074000000, 43647),
      (327684999, 65536), (491528728, 65536), (655369999, 65536), (983064830, 65536), (1310739999, 65536),
      (32768499999, 65536), (65536999999, 65536), (98403903903, 65536), (131073999999, 65536),
      (196807807807, 65536)] → (tpe p d).map (fun r => r.periodTicks) = some t

/-- 42_encoder R128, R126, R122: the TPE fails exactly outside one interval of periods; otherwise it returns the
smallest index that is no sentinel and whose tick count is at most 65536, and that tick count is at least 1. -/
def Obligations.TpeReturnsSmallestIndexOrFails : Prop :=
  ∀ p d : Nat, 1 ≤ p →
    (tpe p d = none ↔ p < 5000 ∨ 196807807807 < p) ∧
    ∀ r, tpe p d = some r →
      r.idx.toNat ∈ [0, 1, 2, 3, 4, 8, 9, 10, 11, 12] ∧
      r.periodTicks = 24000000 / divisor r.idx.toNat * p / 1000000000 ∧
      1 ≤ r.periodTicks ∧ r.periodTicks ≤ 65536 ∧
      ∀ j < r.idx.toNat, divisor j ≠ 0 → 65536 < 24000000 / divisor j * p / 1000000000

/-- 42_encoder R130, R132, R133: the duty ticks, and when the stored field differs from them. -/
def Obligations.DutyTicksAndStoredDuty : Prop :=
  ∀ (p d : Nat) (r : TpeResult), tpe p d = some r →
    r.dutyTicks = r.periodTicks * d / p ∧
    1 ≤ r.periodTicks ∧ r.periodTicks ≤ 65536 ∧
    r.word = pack r.periodTicks r.dutyTicks ∧
    (duty r.word).toNat = r.dutyTicks % 65536 ∧
    (prdM1 r.word).toNat + 1 = r.periodTicks ∧
    (d = 0 → r.dutyTicks = 0) ∧
    (d = p → r.dutyTicks = r.periodTicks) ∧
    (d ≤ p → r.dutyTicks ≤ r.periodTicks ∧
      ((duty r.word).toNat = r.dutyTicks ∨
        (r.dutyTicks = 65536 ∧ r.periodTicks = 65536 ∧ d = p ∧ (duty r.word).toNat = 0)))

/-! ## The commands -/

/-- 40_initialize R100 to R103: INIT's effect for every pair of accessor answers. On success the handle is
`mapped + offset`; on an error it stays as it was; no register changes. -/
def Obligations.InitSetsHandleOrReportsStep : Prop :=
  ∀ s : State, ready s →
    exec .init s = .next (
      match s.accessorOpen with
      | (.err e, s1) => { s1 with hosts := responded s { status := .accessDenied e, data := none } }
      | (.ok, s1) =>
        match s1.accessorMap with
        | (.err e, s2) => { s2 with hosts := responded s { status := .mappingFailed e, data := none } }
        | (.ok page, s2) =>
          let effBase := page * s.params.pageSize + (mapOffset s.params.pageSize).toNat
          { s2 with hosts := hostsSet s.hosts s.cur (HostCtx.mk (some effBase) .idle (okResponse :: (s.host s.cur).responses)) })

/-- 40_initialize R101: INIT changes no register, and of the contexts only its own. It reads none: with other values in
the registers it does the same, and the only draws it uses up are those of the two accessor calls, so no draw of CTRL's
unnamed bits. -/
def Obligations.InitAccessesNoRegister : Prop :=
  ∀ s : State, ready s → ∃ t, exec .init s = .next t ∧
    t.ctrl = s.ctrl ∧ t.period0 = s.period0 ∧ t.period1 = s.period1 ∧ t.refusals = s.refusals ∧
    t.input = s.input ∧ t.params = s.params ∧ t.cur = s.cur ∧ (∀ a, t.physByte a = s.physByte a) ∧
    (∀ k, k ≠ s.cur → t.host k = s.host k) ∧
    (t.draws = match s.accessorOpen with
      | (.err _, s1) => s1.draws
      | (.ok, s1) => s1.accessorMap.2.draws) ∧
    ∀ c p0 p1 : Word, exec .init { s with ctrl := c, period0 := p0, period1 := p1 } =
      .next { t with ctrl := c, period0 := p0, period1 := p1 }

/-- 41_polarity R110, R111, R112: SETPOL writes CTRL back as read but for `ACT[ch]`; nothing else changes. -/
def Obligations.SetpolWritesActOnly : Prop :=
  ∀ (ch : Channel) (pol : Polarity) (s : State), ready s → mapped s →
    exec (.setpol ch pol) s = .next { s with
      ctrl := withBit (s.regValue .ctrl) (1#32 <<< (15 * chNum ch + 5)) (decide (pol = .normal))
      draws := (s.afterRead .ctrl).draws
      hosts := responded s okResponse } ∧
    (s.params.unnamedRead = .storage → s.regValue .ctrl = s.ctrl)

/-- 44_enable R170, R172: ENABLE sets `EN[ch]` and `GATE[ch]`; every other bit is written back as read; nothing else
changes. -/
def Obligations.EnableSetsEnAndGate : Prop :=
  ∀ (ch : Channel) (s : State), ready s → mapped s →
    exec (.enable ch) s = .next { s with
      ctrl := s.regValue .ctrl ||| 1#32 <<< (15 * chNum ch + 4) ||| 1#32 <<< (15 * chNum ch + 6)
      draws := (s.afterRead .ctrl).draws
      hosts := responded s okResponse } ∧
    (s.params.unnamedRead = .storage → s.regValue .ctrl = s.ctrl)

/-- 44_enable R171, R173: DISABLE clears `EN[ch]` and `GATE[ch]`; every other bit is written back as read; nothing else
changes. -/
def Obligations.DisableClearsEnAndGate : Prop :=
  ∀ (ch : Channel) (s : State), ready s → mapped s →
    exec (.disable ch) s = .next { s with
      ctrl := s.regValue .ctrl &&& ~~~ (1#32 <<< (15 * chNum ch + 4) ||| 1#32 <<< (15 * chNum ch + 6))
      draws := (s.afterRead .ctrl).draws
      hosts := responded s okResponse } ∧
    (s.params.unnamedRead = .storage → s.regValue .ctrl = s.ctrl)

/-- 45_register_access R180: RDREG returns the word its register reads as, and changes nothing else. A PERIOD register
reads as stored (10_state R22, 20_memory R56), CTRL too when its unnamed bits are storage (R24). -/
def Obligations.RdregReturnsRegister : Prop :=
  ∀ (r : Reg) (off : BitVec 8) (s : State), ready s → mapped s →
    (off, r) ∈ [(0x00, Reg.ctrl), (0x04, Reg.period .ch0), (0x08, Reg.period .ch1)] →
    exec (.rdreg off) s = .next { s with
      draws := (s.afterRead r).draws
      hosts := responded s { status := .ok, data := some (s.regValue r) } } ∧
    s.regValue (.period .ch0) = s.period0 ∧ s.regValue (.period .ch1) = s.period1 ∧
    (s.params.unnamedRead = .storage → s.regValue .ctrl = s.ctrl)

/-- 45_register_access R181: WRREG writes its register, all 32 bits, and changes nothing else. -/
def Obligations.WrregWritesWholeRegister : Prop :=
  ∀ (off : BitVec 8) (data : Word) (s : State), ready s → mapped s → validOffset off = true →
    exec (.wrreg off data) s = .next { s with
      ctrl := if off = 0x00 then data else s.ctrl
      period0 := if off = 0x04 then data else s.period0
      period1 := if off = 0x08 then data else s.period1
      hosts := responded s okResponse }

/-- 43_configure R158: the net effect of CONFIG in one host context. With plain storage in the unnamed bits CTRL ends as
`with_presc` of its old value; when the unnamed bits read as draws this holds of the named bits. `PERIOD[ch]` takes the
TPE's word, and nothing else changes. -/
def Obligations.ConfigNetEffect : Prop :=
  ∀ (ch : Channel) (p d : BitVec 64) (r : TpeResult) (s : State), ready s → mapped s →
    tpe p.toNat d.toNat = some r →
    ∃ (c : Word) (k : Nat),
      exec (.config ch p d) s = .next { s with
        ctrl := c
        period0 := if ch = .ch0 then r.word else s.period0
        period1 := if ch = .ch1 then r.word else s.period1
        draws := s.draws + k
        hosts := responded s okResponse } ∧
      c &&& namedMask = withPresc s.ctrl ch r.idx &&& namedMask ∧
      (s.params.unnamedRead = .storage → c = withPresc s.ctrl ch r.idx ∧ k = 0)

/-- 60_exceptions R204: when no candidate fits, CONFIG returns PeriodUnrepresentable and writes nothing. -/
def Obligations.ConfigUnrepresentablePeriodWritesNothing : Prop :=
  ∀ (ch : Channel) (p d : BitVec 64) (s : State), ready s → mapped s →
    (1 ≤ p.toNat ∧ p.toNat < 5000) ∨ 196807807807 < p.toNat →
    exec (.config ch p d) s = .next { s with
      hosts := responded s { status := .periodUnrepresentable, data := none } }

/-- 60_exceptions R204: when the TPE finds no candidate, CONFIG returns PeriodUnrepresentable at its line 1 (step 3,
log 12), and only then does any command return it; the registers are then neither read nor written. -/
def Obligations.PeriodUnrepresentableOnlyFromConfig : Prop :=
  (∀ (ch : Channel) (p d : BitVec 64) (h : Nat) (l : Locals) (s : State), tpe p.toNat d.toNat = none →
    line (.config ch p d) h 3 l s = s.raise h .periodUnrepresentable) ∧
  (∀ (i : Instr) (h n : Nat) (l : Locals) (s : State), 1 ≤ n →
    ((line i h n l s).host h).responses = unrepresentableResponse :: (s.host h).responses →
    n = 3 ∧ ∃ ch p d, i = .config ch p d ∧ tpe p.toNat d.toNat = none) ∧
  ∀ (i : Instr) (s t : State), ready s → exec i s = .next t →
    (t.host s.cur).responses = unrepresentableResponse :: (s.host s.cur).responses →
    t = { s with hosts := responded s unrepresentableResponse }

/-- 43_configure R153, 60_exceptions R205: a zero period is refused after the handle check: the reason is recorded in the
mark, there is no response, and no register is accessed. -/
def Obligations.ConfigZeroPeriodRefused : Prop :=
  ∀ (ch : Channel) (d : BitVec 64) (s : State), ready s → mapped s →
    ∃ t, exec (.config ch 0 d) s = .next t ∧
      t.refusals = .periodZero :: s.refusals ∧ t.ctrl = s.ctrl ∧ t.period0 = s.period0 ∧ t.period1 = s.period1 ∧
      t.draws = s.draws ∧ ∀ k, t.host k = s.host k

/-- 60_exceptions R201: without a handle every command but INIT returns NotInitialized and accesses nothing; this comes
before the refusal of a zero period (R207). -/
def Obligations.NoHandleMeansNotInitialized : Prop :=
  ∀ (i : Instr) (s : State), i ≠ .init → ready s → (s.host s.cur).handle = none →
    exec i s = .next { s with hosts := responded s { status := .notInitialized, data := none } }

/-- 20_memory R57: a raw access at an offset that names no register is refused `BadAccess`. Such a command never
decodes; the model's own case (log 20). -/
def Obligations.BadOffsetRefusedBadAccess : Prop :=
  ∀ (off : BitVec 8) (data : Word) (s : State), ready s → mapped s → validOffset off = false →
    ∀ i ∈ [Instr.rdreg off, Instr.wrreg off data],
      ∃ t, exec i s = .next t ∧ t.refusals = .badAccess :: s.refusals ∧
        t.ctrl = s.ctrl ∧ t.period0 = s.period0 ∧ t.period1 = s.period1 ∧ ∀ k, t.host k = s.host k

/-- 60_exceptions R209: a context whose previous command is Busy cannot issue another: `exec` stops by name. -/
def Obligations.BusyContextCannotIssue : Prop :=
  ∀ (i : Instr) (s : State), ¬ ready s → exec i s = .refused .commandWhileBusy

/-- 60_exceptions R208: a command that ends with an error status, or is refused, leaves every register and every handle
as it was, and an error leaves the mark as it was. -/
def Obligations.ErrorsAndRefusalsLeaveState : Prop :=
  ∀ (i : Instr) (s : State), ready s →
    ∃ t, exec i s = .next t ∧
      (t.ctrl = s.ctrl ∧ t.period0 = s.period0 ∧ t.period1 = s.period1 ∧
        (∀ k, (t.host k).handle = (s.host k).handle) ∧
        ((∃ r, (t.host s.cur).responses = r :: (s.host s.cur).responses ∧ r.status ≠ .ok ∧
            t.refusals = s.refusals) ∨
          ((t.host s.cur).responses = (s.host s.cur).responses ∧ ∃ r, t.refusals = r :: s.refusals)) ∨
       (∃ r, (t.host s.cur).responses = r :: (s.host s.cur).responses ∧ r.status = .ok ∧
          t.refusals = s.refusals))

/-- 10_state R26: which commands write which register, and which bits of CTRL (unnamed bits as plain storage). -/
def Obligations.CommandsWriteOnlyTheirRegisters : Prop :=
  ∀ (i : Instr) (s t : State), s.params.unnamedRead = .storage → exec i s = .next t →
    (t.ctrl ^^^ s.ctrl) &&& ~~~ ctrlWriteMask i = 0 ∧
    (t.period0 ≠ s.period0 → (∃ p d, i = .config .ch0 p d) ∨ ∃ data, i = .wrreg 0x04 data) ∧
    (t.period1 ≠ s.period1 → (∃ p d, i = .config .ch1 p d) ∨ ∃ data, i = .wrreg 0x08 data)

/-- The frame in memory (20_memory R51, R60): every byte outside the registers a command stores to reads as before; INIT
and RDREG store to none. -/
def Obligations.BytesOutsideStoredRegistersUnchanged : Prop :=
  ∀ (i : Instr) (s t : State), exec i s = .next t →
    ∀ a : Nat, (∀ r ∈ storesTo i, a < (regAddr r).toNat ∨ (regAddr r).toNat + 4 ≤ a) →
      t.physByte a = s.physByte a

/-- 44_enable R175: ENABLE then DISABLE on a channel leaves both its bits 0 whatever they were, and every other bit as
before ENABLE (an unnamed bit when it is plain storage). -/
def Obligations.EnableThenDisableClearsBoth : Prop :=
  ∀ (ch : Channel) (s : State), ready s → mapped s →
    ∃ t u, exec (.enable ch) s = .next t ∧ exec (.disable ch) t = .next u ∧
      en u.ctrl ch = false ∧ gate u.ctrl ch = false ∧
      (u.ctrl ^^^ s.ctrl) &&& ~~~ (enBit ch ||| gateBit ch) &&& namedMask = 0 ∧
      (s.params.unnamedRead = .storage → (u.ctrl ^^^ s.ctrl) &&& ~~~ (enBit ch ||| gateBit ch) = 0) ∧
      u.period0 = s.period0 ∧ u.period1 = s.period1

/-- 10_state R40: after a CONFIG that ends with OK, `PRESC[ch]` holds no sentinel and `PRD_M1[ch]` is the tick count less
one. -/
def Obligations.ConfiguredFieldsAreValid : Prop :=
  ∀ (ch : Channel) (p d : BitVec 64) (r : TpeResult) (s : State), ready s → mapped s →
    tpe p.toNat d.toNat = some r →
    ∃ t, exec (.config ch p d) s = .next t ∧
      (t.host s.cur).responses = okResponse :: (s.host s.cur).responses ∧
      (presc t.ctrl ch).toNat ∈ [0, 1, 2, 3, 4, 8, 9, 10, 11, 12] ∧
      1 ≤ r.periodTicks ∧ r.periodTicks ≤ 65536 ∧
      (prdM1 (t.period ch)).toNat = r.periodTicks - 1 ∧ (prdM1 (t.period ch)).toNat ≤ 65535

/-- 42_encoder R135, 60_exceptions R219: the period CONFIG achieves is at most the one asked for, and its active time is
`DUTY[ch]` ticks of `d * 125 / 3` ns. When the channel does not run after CONFIG these are the times its registers give
once it runs: the model's reading of R219, which speaks of a running channel (log 13). -/
def Obligations.AchievedPeriodAtMostRequested : Prop :=
  ∀ (ch : Channel) (p d : BitVec 64) (r : TpeResult) (s : State), ready s → mapped s →
    tpe p.toNat d.toNat = some r →
    ∃ t, exec (.config ch p d) s = .next t ∧
      t.achievedPeriodNs ch = (r.periodTicks : Rat) * (divisor r.idx.toNat : Rat) * 125 / 3 ∧
      t.achievedPeriodNs ch ≤ (p.toNat : Rat) ∧
      t.achievedActiveNs ch = ((r.dutyTicks % 65536 : Nat) : Rat) * (divisor r.idx.toNat : Rat) * 125 / 3

/-- 60_exceptions R215 with 44_enable R172, R173, 41_polarity R112 and 43_configure R158, R160: after ENABLE the channel's
counter runs, after DISABLE it does not, and after SETPOL or CONFIG on any channel each counter runs just when it ran
before, also after a CONFIG that ends with an error (60_exceptions R208). -/
def Obligations.CommandsStartAndStopCounter : Prop :=
  ∀ (ch : Channel) (s : State), ready s → mapped s →
    (∃ t, exec (.enable ch) s = .next t ∧ t.running ch = true) ∧
    (∃ t, exec (.disable ch) s = .next t ∧ t.running ch = false) ∧
    (∀ pol, ∃ t, exec (.setpol ch pol) s = .next t ∧ ∀ c, t.running c = s.running c) ∧
    (∀ p d : BitVec 64, p ≠ 0 → ∃ t, exec (.config ch p d) s = .next t ∧ ∀ c, t.running c = s.running c)

/-! ## Register access, addresses and the mapping -/

/-- 20_memory R56, R60: a write changes only the register it names, and writing twice is writing once; a read changes no
register and no context, and of a PERIOD register returns what is stored. -/
def Obligations.RegisterAccessTouchesOnlyItsRegister : Prop :=
  ∀ (s : State) (r q : Reg) (v : Word),
    (s.regWrite r v).reg r = v ∧
    (q ≠ r → (s.regWrite r v).reg q = s.reg q) ∧
    (s.regWrite r v).hosts = s.hosts ∧
    (s.regWrite r v).regWrite r v = s.regWrite r v ∧
    (∀ ch, (s.regRead (.period ch)).1 = s.reg (.period ch) ∧ (s.regRead (.period ch)).2 = s) ∧
    (s.afterRead r).reg q = s.reg q ∧ (s.afterRead r).hosts = s.hosts

/-- 10_state R24: with plain storage CTRL reads as stored; with draws the named bits read as stored, the
unnamed bits read as the free value of this draw, which the read uses up, and a write of them cannot be observed. -/
def Obligations.UnnamedBitsReadAsParameterSays : Prop :=
  ∀ s : State,
    (s.params.unnamedRead = .storage → s.regValue .ctrl = s.ctrl ∧ s.afterRead .ctrl = s) ∧
    (s.params.unnamedRead = .draw →
      s.regValue .ctrl &&& namedMask = s.ctrl &&& namedMask ∧
      s.regValue .ctrl &&& ~~~ namedMask = Config.unnamedDraw s.draws &&& ~~~ namedMask ∧
      (s.afterRead .ctrl).draws = s.draws + 1 ∧
      ∀ u v : Word, u &&& namedMask = v &&& namedMask →
        (s.regWrite .ctrl u).regValue .ctrl = (s.regWrite .ctrl v).regValue .ctrl)

/-- 20_memory R57: an access is admitted exactly when it is 4 bytes wide and lies at the address of a register. -/
def Obligations.OnlyWordAccessesAtRegistersAdmitted : Prop :=
  ∀ (addr : Word) (n : Nat),
    (accessReg addr n ≠ none ↔
      n = 4 ∧ (addr = 0x01c20e00 ∨ addr = 0x01c20e04 ∨ addr = 0x01c20e08)) ∧
    ∀ r, accessReg addr n = some r → addr = regAddr r

/-- 20_memory R58: byte `k` at `PWM_BASE + off + k` holds bits `8k+7 : 8k` of the register at `off`; no other address
holds a byte of the block. -/
def Obligations.RegisterBytesAreLittleEndian : Prop :=
  (∀ (s : State) (r : Reg) (k : Nat), k < 4 →
    s.physByte ((regAddr r).toNat + k) = some ((s.reg r).extractLsb' (8 * k) 8)) ∧
  (∀ (s : State) (a : Nat), a < 0x01c20e00 ∨ 0x01c20e0c ≤ a → s.physByte a = none)

/-- 20_memory R54: for every power of two `PAGE_SIZE >= 16`, the page start and the offset add up to the base, the start
is page aligned, and all three registers lie inside the mapping. -/
def Obligations.RegistersLieInsideMapping : Prop :=
  ∀ p : Params,
    (mapStart p.pageSize).toNat + (mapOffset p.pageSize).toNat = 0x01c20e00 ∧
    p.pageSize ∣ (mapStart p.pageSize).toNat ∧
    (mapOffset p.pageSize).toNat < p.pageSize ∧
    (mapOffset p.pageSize).toNat + 0x00c ≤ 2 * p.pageSize

/-- 20_memory R55, 40_initialize R100: after an INIT that the accessor answers with a mapping, the context's address
`mapped + offset + off` designates the physical address `PWM_BASE + off` at each register, through the handle that INIT
wrote (log 22 says what is open about an earlier one). -/
def Obligations.HandleTranslatesToRegisters : Prop :=
  ∀ (s : State) (page : Nat) (os : List OpenAnswer) (ms : List MapAnswer), ready s →
    s.openAnswers = .ok :: os → s.mapAnswers = .ok page :: ms →
    ∃ t, exec .init s = .next t ∧ t.openAnswers = os ∧ t.mapAnswers = ms ∧
      (t.host s.cur).handle = some (page * s.params.pageSize + (mapOffset s.params.pageSize).toNat) ∧
      ∀ r : Reg, t.translate s.cur
        (page * s.params.pageSize + (mapOffset s.params.pageSize).toNat + (regOffset r).toNat) =
          some (regAddr r).toNat

/-! ## Steps -/

/-- When the command at the head of the input decodes and its context is one of HOSTS and idle, the step is `exec` of the
decoded command for that context, the command taken from the input. -/
def Obligations.StepRunsDecodedCommand : Prop :=
  ∀ (s : State) (h : Nat) (ws : List Word) (rest : List Event) (i : Instr),
    s.input = .command h ws :: rest → h ∈ s.params.hosts → (s.host h).ctl = .idle → decode ws = .ok i →
    step s = exec i { s with input := rest, cur := h }

/-- The word laid out by `withFetchWord` is decoded and run by the very next step. -/
def Obligations.FetchedWordRunsNext : Prop :=
  ∀ (s : State) (nbits w : Nat) (i : Instr), ready s → s.cur ∈ s.params.hosts → decodeTableWord nbits w = some i →
    step (s.withFetchWord nbits w) = exec i s

/-- 30_encoding R86, 60_exceptions R205: a delivered command that does not decode performs no line and changes no state
but the refusal mark, which records the reason. That the run goes on is the model's reading (log 7). -/
def Obligations.UndecodableCommandIsMarked : Prop :=
  ∀ (s : State) (h : Nat) (ws : List Word) (rest : List Event) (r : IllegalReason),
    s.input = .command h ws :: rest ∨ s.input = .issue h ws :: rest →
    h ∈ s.params.hosts → (s.host h).ctl = .idle → decode ws = .error r →
    step s = .next { s with input := rest, cur := h, refusals := .illegalCommand r :: s.refusals }

/-- 20_memory R61, 10_state R33: a command issued for a context that is still Busy waits in the input while the context
executes the next line of its command. -/
def Obligations.BusyContextFinishesFirst : Prop :=
  ∀ (s : State) (h n : Nat) (ws : List Word) (rest : List Event) (cmd : Instr) (l : Locals),
    s.input = .command h ws :: rest ∨ s.input = .issue h ws :: rest →
    h ∈ s.params.hosts → (s.host h).ctl = .busy cmd n l →
    ∃ t, step s = .next t ∧ t.input = s.input ∧ t = line cmd h n l { s with cur := h }

/-- 60_exceptions R213: the contexts are the elements of HOSTS. An event with another number is dropped: it changes no
register, no context and no mark (the model's choice, log 3). -/
def Obligations.OnlyHostsAct : Prop :=
  ∀ (s : State) (e : Event) (rest : List Event), s.input = e :: rest → e.host ∉ s.params.hosts →
    step s = .next { s with input := rest }

/-- No step stops with a fault or a refusal (93_implementation_defined: no case is `fault` or `stuck`; refusals are
recorded in the mark, log 7). -/
def Obligations.EveryStepAnswers : Prop :=
  ∀ s : State, ∃ t, step s = .next t

/-- 10_state R34, 70_reset R245: executing a line of a command moves its context to the next line of the same command or
ends the command, and the last line ends it; no command has more than 12 lines. -/
def Obligations.EachLineAdvancesOrEnds : Prop :=
  (∀ (s : State) (h n : Nat) (cmd : Instr) (l : Locals), (s.host h).ctl = .busy cmd n l → 1 ≤ n →
    ((s.advance h).host h).ctl = .idle ∨
      (n < lineCount cmd ∧ ∃ l', ((s.advance h).host h).ctl = .busy cmd (n + 1) l')) ∧
  ∀ cmd, lineCount cmd ≤ 12

/-- A whole command is its lines: issuing it and letting its context alone execute line after line, in steps of their
own, ends in the state of the one step that runs it whole, for every command and every state (log 21). -/
def Obligations.WholeCommandEqualsItsLines : Prop :=
  ∀ (s : State) (h : Nat) (ws : List Word) (rest : List Event) (i : Instr),
    (s.host h).ctl = .idle → decode ws = .ok i →
    Host.Core.run Sys2Proof.core (lineCount i + 1)
        { s with input := .issue h ws :: (List.replicate (lineCount i) (.advance h) ++ rest) } =
      step { s with input := .command h ws :: rest }

/-- 43_configure R159: with no other context moving, `GATE[ch]` is 0 after each of CONFIG's lines from 3b (step 6) to 6a
(step 10), so also when line 4b (step 8) and line 5 (step 9) write, and after the last line it is as before the command.
No line applies a new prescaler to a channel whose clock is connected before and after it. (Steps count the labelled lines
of R150 from 1: log 12.) -/
def Obligations.ConfigNeverGlitches : Prop :=
  ∀ (ch : Channel) (p d : BitVec 64) (r : TpeResult) (s : State), ready s → mapped s →
    tpe p.toNat d.toNat = some r →
    let cmd := Instr.config ch p d
    let after := fun k => runLines (line cmd) s.cur k (s.issue s.cur cmd)
    (∀ k, 6 ≤ k → k ≤ 10 → gate (after k).ctrl ch = false) ∧
    gate (after 12).ctrl ch = gate s.ctrl ch ∧
    (∀ k, presc (after k).ctrl ch ≠ presc (after (k + 1)).ctrl ch → gate (after (k + 1)).ctrl ch = false) ∧
    ∀ k c, glitch (after k).ctrl (after (k + 1)).ctrl c = false

/-- 70_reset R241: the lost update. Contexts `a` and `b` enable channels 0 and 1; both read before either writes, and
`a` writes first. Both get OK, and `a`'s update is lost. With plain storage this holds of the whole of CTRL; when the
unnamed bits read as draws it holds of the named bits. -/
def Obligations.InterleavedEnablesLoseUpdate : Prop :=
  ∀ (s : State) (a b : Nat), a ≠ b → a ∈ s.params.hosts → b ∈ s.params.hosts →
    (s.host a).ctl = .idle → (s.host b).ctl = .idle → (s.host a).handle ≠ none → (s.host b).handle ≠ none →
    let schedule : List Event :=
      [.issue a [0x00000004], .advance a, .advance a, .issue b [0x00000014], .advance b, .advance b,
        .advance a, .advance b, .advance a, .advance b]
    ∃ t, Host.Core.run Sys2Proof.core 10 { s with input := schedule } = .next t ∧
      t.ctrl &&& namedMask = (s.ctrl ||| 0x00280000) &&& namedMask ∧
      (s.params.unnamedRead = .storage → t.ctrl = s.ctrl ||| 0x00280000) ∧
      (t.host a).responses = okResponse :: (s.host a).responses ∧
      (t.host b).responses = okResponse :: (s.host b).responses

/-- 70_reset R242: the saved-gating hazard. Context `b` disables (or enables) the channel between lines 2 and 3a of
`a`'s CONFIG on it: the gate ends as CONFIG saved it, not as `b` left it. -/
def Obligations.ConfigIgnoresConcurrentGateChange : Prop :=
  ∀ (s : State) (a b : Nat) (ch : Channel) (p d : BitVec 64) (r : TpeResult) (off : Bool), a ≠ b →
    a ∈ s.params.hosts → b ∈ s.params.hosts → (s.host a).ctl = .idle → (s.host b).ctl = .idle →
    (s.host a).handle ≠ none → (s.host b).handle ≠ none →
    tpe p.toNat d.toNat = some r → gate s.ctrl ch = off →
    let other : Instr := if off then .disable ch else .enable ch
    let schedule : List Event :=
      [.issue a (encode (.config ch p d)), .advance a, .advance a, .advance a, .advance a,
        .issue b (encode other), .advance b, .advance b, .advance b, .advance b] ++ List.replicate 8 (.advance a)
    ∃ t, Host.Core.run Sys2Proof.core 18 { s with input := schedule } = .next t ∧
      en t.ctrl ch = !off ∧ gate t.ctrl ch = off ∧ presc t.ctrl ch = r.idx ∧
      (t.host a).responses = okResponse :: (s.host a).responses ∧
      (t.host b).responses = okResponse :: (s.host b).responses

/-- 60_exceptions R213, R201: a step of one context leaves every other context's handle, controller and responses
alone; and no step changes a parameter. -/
def Obligations.StepsLeaveOtherContextsAlone : Prop :=
  ∀ (s t : State) (k : Nat), step s = .next t → (∀ e rest, s.input = e :: rest → e.host ≠ k) →
    t.host k = s.host k ∧ t.params = s.params

/-- 60_exceptions R206: every command but INIT decides on the handle at its line 0, before any access: without a handle it
ends with NotInitialized, with one it goes to its next line, and nothing else changes; and a step that changes a handle
is INIT's, at its line 5, unless the context ends. -/
def Obligations.OnlyInitWritesHandles : Prop :=
  (∀ (i : Instr) (h : Nat) (l : Locals) (s : State), i ≠ .init →
    line i h 1 l s =
      if (s.host h).handle = none then s.raise h .notInitialized else s.toLine h i 2 l) ∧
  ∀ (s t : State) (k : Nat), step s = .next t → (t.host k).handle ≠ (s.host k).handle →
    (∃ rest, s.input = .exit k :: rest ∧ (t.host k).handle = none) ∨
    (∃ ws rest, s.input = .command k ws :: rest ∧ (s.host k).ctl = .idle ∧ decode ws = .ok .init) ∨
    (∃ l, (s.host k).ctl = .busy .init 5 l)

/-- 70_reset R233: a handle lives until its context ends: no other step takes one away. When a context ends, its handle
and controller state vanish, and the registers, the mark and the other contexts keep their values. -/
def Obligations.HandleLivesUntilContextEnds : Prop :=
  (∀ (s t : State) (k : Nat), step s = .next t → (s.host k).handle ≠ none → (∀ rest, s.input ≠ .exit k :: rest) →
    (t.host k).handle ≠ none) ∧
  ∀ (s : State) (h : Nat) (rest : List Event), s.input = .exit h :: rest → h ∈ s.params.hosts →
    ∃ t, step s = .next t ∧ (t.host h).handle = none ∧ (t.host h).ctl = .idle ∧
      t.ctrl = s.ctrl ∧ t.period0 = s.period0 ∧ t.period1 = s.period1 ∧ t.refusals = s.refusals ∧
      ∀ k, k ≠ h → t.host k = s.host k

/-- 60_exceptions R205: the refusal mark is kept for the rest of the run: no step removes a reason from it. -/
def Obligations.RefusalMarkIsKept : Prop :=
  ∀ s t : State, step s = .next t → ∃ more, t.refusals = more ++ s.refusals ∧ more.length ≤ 1

/-! ## Reset and the invariant -/

/-- 70_reset R230, R232: at power-on the registers hold their draws, whatever these are, every context has no handle and
an idle controller, and the invariant holds. -/
def Obligations.PowerOnState : Prop :=
  ∀ (p : Params) (c p0 p1 : Word),
    let s := State.powerOn p c p0 p1
    s.ctrl = c ∧ s.reg (.period .ch0) = p0 ∧ s.reg (.period .ch1) = p1 ∧
    (∀ h, (s.host h).handle = none ∧ (s.host h).ctl = .idle ∧ (s.host h).responses = []) ∧
    s.unmarked ∧ s.Inv

/-- The invariant holds right after reset. The register values of `State.reset` are the model's choice (log 1) and play
no part in it. -/
def Obligations.ResetHasTheInvariant : Prop := State.reset.Inv

/-- Every step keeps the invariant: contexts in canonical order and elements of HOSTS, each controller at a line of a well-formed command, a
handle held past the handle check, INIT's mapping values and CONFIG's TPE result in the locals. -/
def Obligations.StepKeepsTheInvariant : Prop :=
  ∀ s t : State, s.Inv → step s = .next t → t.Inv

/-- 43_configure R156, R157 and 42_encoder R122, in every interleaving: in a state of the invariant, whatever the other
contexts did meanwhile, CONFIG's line 4b ORs the TPE's index, which is no sentinel, into the value read at 4a at the place
of `PRESC[ch]`, and line 5 stores the TPE's word. -/
def Obligations.ConfigLinesWriteTpeResult : Prop :=
  ∀ (s : State) (h : Nat) (ch : Channel) (p d : BitVec 64) (l : Locals), s.Inv →
    ((s.host h).ctl = .busy (.config ch p d) 8 l →
      ∃ r, tpe p.toNat d.toNat = some r ∧ r.idx.toNat ∈ [0, 1, 2, 3, 4, 8, 9, 10, 11, 12] ∧
        (s.advance h).ctrl = l.v ||| r.idx.setWidth 32 <<< (15 * chNum ch)) ∧
    ((s.host h).ctl = .busy (.config ch p d) 9 l →
      ∃ r, tpe p.toNat d.toNat = some r ∧ (s.advance h).reg (.period ch) = r.word ∧ (s.advance h).ctrl = s.ctrl)
end

