-- ==== Sys2Proof/Laws/Fields.lean ====
section
/-! SUPPORT. The fields of CTRL bit by bit (30_encoding R70 to R74): what each extraction reads and which bits each mask
has, so that a fact about fields is a fact about bits. -/

namespace Sys2Proof.Machine

/-- One bit of a word, read by a shift and a mask. -/
theorem shift_and_one (v : Word) (n : Nat) : ((v >>> n) &&& 1 == 1) = v.getLsbD n := by
  rw [show (1 : Word) = 1#32 from rfl, BitVec.and_one_eq_setWidth_ofBool_getLsbD]
  cases e : v.getLsbD n <;> simp [e]

theorem en_eq (v : Word) (ch : Channel) : en v ch = v.getLsbD (chShift ch + 4) := shift_and_one v _
theorem act_eq (v : Word) (ch : Channel) : act v ch = v.getLsbD (chShift ch + 5) := shift_and_one v _
theorem gate_eq (v : Word) (ch : Channel) : gate v ch = v.getLsbD (chShift ch + 6) := shift_and_one v _

theorem presc_getLsbD (v : Word) (ch : Channel) (k : Nat) :
    (presc v ch).getLsbD k = (decide (k < 4) && v.getLsbD (chShift ch + k)) := by
  by_cases h : k < 4
  · have e : (0xF#32).getLsbD k = true := by interval_cases k <;> rfl
    simp only [presc, BitVec.getLsbD_setWidth, BitVec.getLsbD_and, BitVec.getLsbD_ushiftRight]
    rw [show (0xF : Word) = 0xF#32 from rfl, e, Bool.and_true]
  · simp [BitVec.getLsbD_of_ge _ _ (by omega : 4 ≤ k), h]

theorem chShift_cases (ch : Channel) : chShift ch = 0 ∨ chShift ch = 15 := by cases ch <;> simp [chShift, chNum]

/-- The place of one bit of `mask << n`. -/
theorem shl_getLsbD (m : Word) (n k : Nat) :
    (m <<< n).getLsbD k = (decide (k < 32) && !decide (k < n) && m.getLsbD (k - n)) := by
  simp [BitVec.getLsbD_shiftLeft]

theorem one_shl_getLsbD (n k : Nat) (hn : n < 32) : (1#32 <<< n).getLsbD k = decide (k = n) := by
  rw [shl_getLsbD]
  by_cases h : k = n
  · subst h
    simp [hn]
  · have : ¬ (k - n = 0 ∧ ¬ k < n) := by omega
    by_cases h2 : k < n
    · simp [h2, h]
    · have h3 : k - n ≠ 0 := by omega
      simp [h, h3]

theorem enBit_getLsbD (ch : Channel) (k : Nat) : (enBit ch).getLsbD k = decide (k = chShift ch + 4) :=
  one_shl_getLsbD _ _ (by rcases chShift_cases ch with h | h <;> omega)
theorem actBit_getLsbD (ch : Channel) (k : Nat) : (actBit ch).getLsbD k = decide (k = chShift ch + 5) :=
  one_shl_getLsbD _ _ (by rcases chShift_cases ch with h | h <;> omega)
theorem gateBit_getLsbD (ch : Channel) (k : Nat) : (gateBit ch).getLsbD k = decide (k = chShift ch + 6) :=
  one_shl_getLsbD _ _ (by rcases chShift_cases ch with h | h <;> omega)

/-- A run of ones below bit `w`. -/
theorem ones_getLsbD (w k : Nat) (hw : w ≤ 32) : (BitVec.ofNat 32 (2 ^ w - 1)).getLsbD k = decide (k < w) := by
  rw [BitVec.getLsbD_ofNat, Nat.testBit_two_pow_sub_one]
  by_cases h : k < w
  · simp [h, show k < 32 by omega]
  · simp [h]

theorem prescMask_getLsbD (ch : Channel) (k : Nat) :
    (prescMask ch).getLsbD k = (decide (chShift ch ≤ k) && decide (k < chShift ch + 4)) := by
  have h := ones_getLsbD 4 (k - chShift ch) (by omega)
  rw [prescMask, shl_getLsbD, show (0xF#32) = BitVec.ofNat 32 (2 ^ 4 - 1) from rfl, h]
  rcases chShift_cases ch with e | e <;> rw [e] <;> rw [Bool.eq_iff_iff] <;> simp <;> omega

theorem chMask_getLsbD (ch : Channel) (k : Nat) :
    (chMask ch).getLsbD k = (decide (chShift ch ≤ k) && decide (k < chShift ch + 7)) := by
  have h := ones_getLsbD 7 (k - chShift ch) (by omega)
  rw [chMask, shl_getLsbD, show (0x7F#32) = BitVec.ofNat 32 (2 ^ 7 - 1) from rfl, h]
  rcases chShift_cases ch with e | e <;> rw [e] <;> rw [Bool.eq_iff_iff] <;> simp <;> omega

theorem namedMask_getLsbD (k : Nat) :
    namedMask.getLsbD k = (decide (k < 7) || (decide (15 ≤ k) && decide (k < 22))) := by
  rw [namedMask, BitVec.getLsbD_or, chMask_getLsbD, chMask_getLsbD]
  rw [Bool.eq_iff_iff]
  simp [chShift, chNum]

theorem prescAt_getLsbD (ch : Channel) (i : BitVec 4) (k : Nat) :
    (prescAt ch i).getLsbD k = (decide (chShift ch ≤ k) && i.getLsbD (k - chShift ch)) := by
  have h0 : ∀ j, 4 ≤ j → i.getLsbD j = false := fun j hj => BitVec.getLsbD_of_ge _ _ hj
  rw [prescAt, shl_getLsbD, BitVec.getLsbD_setWidth]
  rcases chShift_cases ch with e | e <;> rw [e]
  · by_cases hk : k < 32
    · simp [hk]
    · simp [hk, h0 k (by omega)]
  · by_cases hk : k < 32
    · by_cases hk2 : k < 15
      · simp [hk2]
      · simp [hk, hk2, show k - 15 < 32 by omega, show 15 ≤ k by omega]
    · simp [hk, h0 (k - 15) (by omega)]

/-- Two words with the same 32 bits are equal. -/
theorem word_ext {v w : Word} (h : ∀ k < 32, v.getLsbD k = w.getLsbD k) : v = w :=
  BitVec.eq_of_getLsbD_eq fun k hk => h k hk

end Sys2Proof.Machine
end

