-- ==== Sys2Proof/Laws/State.lean ====
section
/-! SUPPORT. One lemma per field per update of the state, each true by unfolding, so that no later proof unfolds a record
update; and what `host` reads after each. -/

namespace Sys2Proof.Machine

/-! ## Replacing a context -/

@[simp] theorem State.setHost_ctrl (s : State) (h : Nat) (c : HostCtx) : (s.setHost h c).ctrl = s.ctrl := rfl
@[simp] theorem State.setHost_period0 (s : State) (h : Nat) (c : HostCtx) : (s.setHost h c).period0 = s.period0 := rfl
@[simp] theorem State.setHost_period1 (s : State) (h : Nat) (c : HostCtx) : (s.setHost h c).period1 = s.period1 := rfl
@[simp] theorem State.setHost_hosts (s : State) (h : Nat) (c : HostCtx) : (s.setHost h c).hosts = hostsSet s.hosts h c := rfl
@[simp] theorem State.setHost_refusals (s : State) (h : Nat) (c : HostCtx) : (s.setHost h c).refusals = s.refusals := rfl
@[simp] theorem State.setHost_input (s : State) (h : Nat) (c : HostCtx) : (s.setHost h c).input = s.input := rfl
@[simp] theorem State.setHost_openAnswers (s : State) (h : Nat) (c : HostCtx) : (s.setHost h c).openAnswers = s.openAnswers := rfl
@[simp] theorem State.setHost_mapAnswers (s : State) (h : Nat) (c : HostCtx) : (s.setHost h c).mapAnswers = s.mapAnswers := rfl
@[simp] theorem State.setHost_params (s : State) (h : Nat) (c : HostCtx) : (s.setHost h c).params = s.params := rfl
@[simp] theorem State.setHost_cur (s : State) (h : Nat) (c : HostCtx) : (s.setHost h c).cur = s.cur := rfl
@[simp] theorem State.setHost_draws (s : State) (h : Nat) (c : HostCtx) : (s.setHost h c).draws = s.draws := rfl

/-! ## Recording a refusal and taking an event -/

@[simp] theorem State.mark_ctrl (s : State) (r : RefuseReason) : (s.mark r).ctrl = s.ctrl := rfl
@[simp] theorem State.mark_period0 (s : State) (r : RefuseReason) : (s.mark r).period0 = s.period0 := rfl
@[simp] theorem State.mark_period1 (s : State) (r : RefuseReason) : (s.mark r).period1 = s.period1 := rfl
@[simp] theorem State.mark_hosts (s : State) (r : RefuseReason) : (s.mark r).hosts = s.hosts := rfl
@[simp] theorem State.mark_refusals (s : State) (r : RefuseReason) : (s.mark r).refusals = r :: s.refusals := rfl
@[simp] theorem State.mark_input (s : State) (r : RefuseReason) : (s.mark r).input = s.input := rfl
@[simp] theorem State.mark_openAnswers (s : State) (r : RefuseReason) : (s.mark r).openAnswers = s.openAnswers := rfl
@[simp] theorem State.mark_mapAnswers (s : State) (r : RefuseReason) : (s.mark r).mapAnswers = s.mapAnswers := rfl
@[simp] theorem State.mark_params (s : State) (r : RefuseReason) : (s.mark r).params = s.params := rfl
@[simp] theorem State.mark_cur (s : State) (r : RefuseReason) : (s.mark r).cur = s.cur := rfl
@[simp] theorem State.mark_draws (s : State) (r : RefuseReason) : (s.mark r).draws = s.draws := rfl

@[simp] theorem State.take_ctrl (s : State) (h : Nat) (rest : List Event) : (s.take h rest).ctrl = s.ctrl := rfl
@[simp] theorem State.take_period0 (s : State) (h : Nat) (rest : List Event) : (s.take h rest).period0 = s.period0 := rfl
@[simp] theorem State.take_period1 (s : State) (h : Nat) (rest : List Event) : (s.take h rest).period1 = s.period1 := rfl
@[simp] theorem State.take_hosts (s : State) (h : Nat) (rest : List Event) : (s.take h rest).hosts = s.hosts := rfl
@[simp] theorem State.take_refusals (s : State) (h : Nat) (rest : List Event) : (s.take h rest).refusals = s.refusals := rfl
@[simp] theorem State.take_input (s : State) (h : Nat) (rest : List Event) : (s.take h rest).input = rest := rfl
@[simp] theorem State.take_openAnswers (s : State) (h : Nat) (rest : List Event) : (s.take h rest).openAnswers = s.openAnswers := rfl
@[simp] theorem State.take_mapAnswers (s : State) (h : Nat) (rest : List Event) : (s.take h rest).mapAnswers = s.mapAnswers := rfl
@[simp] theorem State.take_params (s : State) (h : Nat) (rest : List Event) : (s.take h rest).params = s.params := rfl
@[simp] theorem State.take_cur (s : State) (h : Nat) (rest : List Event) : (s.take h rest).cur = h := rfl
@[simp] theorem State.take_draws (s : State) (h : Nat) (rest : List Event) : (s.take h rest).draws = s.draws := rfl

@[simp] theorem State.dropEvent_ctrl (s : State) (rest : List Event) : (s.dropEvent rest).ctrl = s.ctrl := rfl
@[simp] theorem State.dropEvent_period0 (s : State) (rest : List Event) : (s.dropEvent rest).period0 = s.period0 := rfl
@[simp] theorem State.dropEvent_period1 (s : State) (rest : List Event) : (s.dropEvent rest).period1 = s.period1 := rfl
@[simp] theorem State.dropEvent_hosts (s : State) (rest : List Event) : (s.dropEvent rest).hosts = s.hosts := rfl
@[simp] theorem State.dropEvent_refusals (s : State) (rest : List Event) : (s.dropEvent rest).refusals = s.refusals := rfl
@[simp] theorem State.dropEvent_openAnswers (s : State) (rest : List Event) : (s.dropEvent rest).openAnswers = s.openAnswers := rfl
@[simp] theorem State.dropEvent_mapAnswers (s : State) (rest : List Event) : (s.dropEvent rest).mapAnswers = s.mapAnswers := rfl
@[simp] theorem State.dropEvent_params (s : State) (rest : List Event) : (s.dropEvent rest).params = s.params := rfl
@[simp] theorem State.dropEvent_cur (s : State) (rest : List Event) : (s.dropEvent rest).cur = s.cur := rfl
@[simp] theorem State.dropEvent_draws (s : State) (rest : List Event) : (s.dropEvent rest).draws = s.draws := rfl
@[simp] theorem State.dropEvent_input (s : State) (rest : List Event) : (s.dropEvent rest).input = rest := rfl

/-! ## Writing a register -/

@[simp] theorem State.writeCtrl_ctrl (s : State) (v : Word) : (s.regWrite .ctrl v).ctrl = v := rfl
@[simp] theorem State.writeCtrl_period0 (s : State) (v : Word) : (s.regWrite .ctrl v).period0 = s.period0 := rfl
@[simp] theorem State.writeCtrl_period1 (s : State) (v : Word) : (s.regWrite .ctrl v).period1 = s.period1 := rfl
@[simp] theorem State.writePeriod0_ctrl (s : State) (v : Word) : (s.regWrite (.period .ch0) v).ctrl = s.ctrl := rfl
@[simp] theorem State.writePeriod0_period0 (s : State) (v : Word) : (s.regWrite (.period .ch0) v).period0 = v := rfl
@[simp] theorem State.writePeriod0_period1 (s : State) (v : Word) : (s.regWrite (.period .ch0) v).period1 = s.period1 := rfl
@[simp] theorem State.writePeriod1_ctrl (s : State) (v : Word) : (s.regWrite (.period .ch1) v).ctrl = s.ctrl := rfl
@[simp] theorem State.writePeriod1_period0 (s : State) (v : Word) : (s.regWrite (.period .ch1) v).period0 = s.period0 := rfl
@[simp] theorem State.writePeriod1_period1 (s : State) (v : Word) : (s.regWrite (.period .ch1) v).period1 = v := rfl

@[simp] theorem State.regWrite_hosts (s : State) (r : Reg) (v : Word) : (s.regWrite r v).hosts = s.hosts := by
  rcases r with _ | ⟨_ | _⟩ <;> rfl
@[simp] theorem State.regWrite_refusals (s : State) (r : Reg) (v : Word) : (s.regWrite r v).refusals = s.refusals := by
  rcases r with _ | ⟨_ | _⟩ <;> rfl
@[simp] theorem State.regWrite_input (s : State) (r : Reg) (v : Word) : (s.regWrite r v).input = s.input := by
  rcases r with _ | ⟨_ | _⟩ <;> rfl
@[simp] theorem State.regWrite_openAnswers (s : State) (r : Reg) (v : Word) : (s.regWrite r v).openAnswers = s.openAnswers := by
  rcases r with _ | ⟨_ | _⟩ <;> rfl
@[simp] theorem State.regWrite_mapAnswers (s : State) (r : Reg) (v : Word) : (s.regWrite r v).mapAnswers = s.mapAnswers := by
  rcases r with _ | ⟨_ | _⟩ <;> rfl
@[simp] theorem State.regWrite_params (s : State) (r : Reg) (v : Word) : (s.regWrite r v).params = s.params := by
  rcases r with _ | ⟨_ | _⟩ <;> rfl
@[simp] theorem State.regWrite_cur (s : State) (r : Reg) (v : Word) : (s.regWrite r v).cur = s.cur := by
  rcases r with _ | ⟨_ | _⟩ <;> rfl
@[simp] theorem State.regWrite_draws (s : State) (r : Reg) (v : Word) : (s.regWrite r v).draws = s.draws := by
  rcases r with _ | ⟨_ | _⟩ <;> rfl

/-! ## After a read -/

@[simp] theorem State.afterRead_ctrl (s : State) (r : Reg) : (s.afterRead r).ctrl = s.ctrl := by
  rcases r with _ | ch <;> simp only [State.afterRead]
  split <;> rfl
@[simp] theorem State.afterRead_period0 (s : State) (r : Reg) : (s.afterRead r).period0 = s.period0 := by
  rcases r with _ | ch <;> simp only [State.afterRead]
  split <;> rfl
@[simp] theorem State.afterRead_period1 (s : State) (r : Reg) : (s.afterRead r).period1 = s.period1 := by
  rcases r with _ | ch <;> simp only [State.afterRead]
  split <;> rfl
@[simp] theorem State.afterRead_hosts (s : State) (r : Reg) : (s.afterRead r).hosts = s.hosts := by
  rcases r with _ | ch <;> simp only [State.afterRead]
  split <;> rfl
@[simp] theorem State.afterRead_refusals (s : State) (r : Reg) : (s.afterRead r).refusals = s.refusals := by
  rcases r with _ | ch <;> simp only [State.afterRead]
  split <;> rfl
@[simp] theorem State.afterRead_input (s : State) (r : Reg) : (s.afterRead r).input = s.input := by
  rcases r with _ | ch <;> simp only [State.afterRead]
  split <;> rfl
@[simp] theorem State.afterRead_openAnswers (s : State) (r : Reg) : (s.afterRead r).openAnswers = s.openAnswers := by
  rcases r with _ | ch <;> simp only [State.afterRead]
  split <;> rfl
@[simp] theorem State.afterRead_mapAnswers (s : State) (r : Reg) : (s.afterRead r).mapAnswers = s.mapAnswers := by
  rcases r with _ | ch <;> simp only [State.afterRead]
  split <;> rfl
@[simp] theorem State.afterRead_params (s : State) (r : Reg) : (s.afterRead r).params = s.params := by
  rcases r with _ | ch <;> simp only [State.afterRead]
  split <;> rfl
@[simp] theorem State.afterRead_cur (s : State) (r : Reg) : (s.afterRead r).cur = s.cur := by
  rcases r with _ | ch <;> simp only [State.afterRead]
  split <;> rfl

/-! ## After a call of the accessor -/

@[simp] theorem State.accessorOpen_ctrl (s : State) : s.accessorOpen.2.ctrl = s.ctrl := by
  unfold State.accessorOpen; split <;> rfl
@[simp] theorem State.accessorOpen_period0 (s : State) : s.accessorOpen.2.period0 = s.period0 := by
  unfold State.accessorOpen; split <;> rfl
@[simp] theorem State.accessorOpen_period1 (s : State) : s.accessorOpen.2.period1 = s.period1 := by
  unfold State.accessorOpen; split <;> rfl
@[simp] theorem State.accessorOpen_hosts (s : State) : s.accessorOpen.2.hosts = s.hosts := by
  unfold State.accessorOpen; split <;> rfl
@[simp] theorem State.accessorOpen_refusals (s : State) : s.accessorOpen.2.refusals = s.refusals := by
  unfold State.accessorOpen; split <;> rfl
@[simp] theorem State.accessorOpen_input (s : State) : s.accessorOpen.2.input = s.input := by
  unfold State.accessorOpen; split <;> rfl
@[simp] theorem State.accessorOpen_mapAnswers (s : State) : s.accessorOpen.2.mapAnswers = s.mapAnswers := by
  unfold State.accessorOpen; split <;> rfl
@[simp] theorem State.accessorOpen_params (s : State) : s.accessorOpen.2.params = s.params := by
  unfold State.accessorOpen; split <;> rfl
@[simp] theorem State.accessorOpen_cur (s : State) : s.accessorOpen.2.cur = s.cur := by
  unfold State.accessorOpen; split <;> rfl

@[simp] theorem State.accessorMap_ctrl (s : State) : s.accessorMap.2.ctrl = s.ctrl := by
  unfold State.accessorMap; split <;> rfl
@[simp] theorem State.accessorMap_period0 (s : State) : s.accessorMap.2.period0 = s.period0 := by
  unfold State.accessorMap; split <;> rfl
@[simp] theorem State.accessorMap_period1 (s : State) : s.accessorMap.2.period1 = s.period1 := by
  unfold State.accessorMap; split <;> rfl
@[simp] theorem State.accessorMap_hosts (s : State) : s.accessorMap.2.hosts = s.hosts := by
  unfold State.accessorMap; split <;> rfl
@[simp] theorem State.accessorMap_refusals (s : State) : s.accessorMap.2.refusals = s.refusals := by
  unfold State.accessorMap; split <;> rfl
@[simp] theorem State.accessorMap_input (s : State) : s.accessorMap.2.input = s.input := by
  unfold State.accessorMap; split <;> rfl
@[simp] theorem State.accessorMap_openAnswers (s : State) : s.accessorMap.2.openAnswers = s.openAnswers := by
  unfold State.accessorMap; split <;> rfl
@[simp] theorem State.accessorMap_params (s : State) : s.accessorMap.2.params = s.params := by
  unfold State.accessorMap; split <;> rfl
@[simp] theorem State.accessorMap_cur (s : State) : s.accessorMap.2.cur = s.cur := by
  unfold State.accessorMap; split <;> rfl

/-! ## The operations that are one replacement of a context -/

theorem State.setCtl_eq (s : State) (h : Nat) (k : Ctl) : s.setCtl h k = s.setHost h { s.host h with ctl := k } := rfl
theorem State.setHandle_eq (s : State) (h : Nat) (e : Addr) :
    s.setHandle h e = s.setHost h { s.host h with handle := some e } := rfl
theorem State.toLine_eq (s : State) (h : Nat) (cmd : Instr) (n : Nat) (l : Locals) :
    s.toLine h cmd n l = s.setHost h { s.host h with ctl := .busy cmd n l } := rfl
theorem State.issue_eq (s : State) (h : Nat) (cmd : Instr) :
    s.issue h cmd = s.setHost h { s.host h with ctl := .busy cmd 1 {} } := rfl
theorem State.finish_eq (s : State) (h : Nat) (r : Response) :
    s.finish h r = s.setHost h { s.host h with ctl := .idle, responses := r :: (s.host h).responses } := rfl
theorem State.complete_eq (s : State) (h : Nat) (d : Option Word) :
    s.complete h d = s.finish h { status := .ok, data := d } := rfl
theorem State.raise_eq (s : State) (h : Nat) (e : Status) : s.raise h e = s.finish h { status := e, data := none } := rfl
theorem State.refuse_eq (s : State) (h : Nat) (r : RefuseReason) :
    s.refuse h r = (s.mark r).setHost h { s.host h with ctl := .idle } := rfl
theorem State.exitHost_eq (s : State) (h : Nat) :
    s.exitHost h = s.setHost h { HostCtx.fresh with responses := (s.host h).responses } := rfl

/-! ## Reading a context after an update -/

@[simp] theorem State.mark_host (s : State) (r : RefuseReason) (k : Nat) : (s.mark r).host k = s.host k := rfl
@[simp] theorem State.take_host (s : State) (h : Nat) (rest : List Event) (k : Nat) :
    (s.take h rest).host k = s.host k := rfl
@[simp] theorem State.dropEvent_host (s : State) (rest : List Event) (k : Nat) :
    (s.dropEvent rest).host k = s.host k := rfl
@[simp] theorem State.regWrite_host (s : State) (r : Reg) (v : Word) (k : Nat) : (s.regWrite r v).host k = s.host k := by
  simp [State.host]
@[simp] theorem State.afterRead_host (s : State) (r : Reg) (k : Nat) : (s.afterRead r).host k = s.host k := by
  simp [State.host]
@[simp] theorem State.accessorOpen_host (s : State) (k : Nat) : s.accessorOpen.2.host k = s.host k := by
  simp [State.host]
@[simp] theorem State.accessorMap_host (s : State) (k : Nat) : s.accessorMap.2.host k = s.host k := by
  simp [State.host]
@[simp] theorem State.accessorClose_eq (s : State) : s.accessorClose = s := rfl

end Sys2Proof.Machine
end

