-- ==== Sys2Proof/Laws/Hosts.lean ====
section
/-! SUPPORT. The map of host contexts: read after write, one write after another, and the canonical order. -/

namespace Sys2Proof.Machine

@[simp] theorem hostsGet_hostsSet_same (l : List (Nat × HostCtx)) (h : Nat) (c : HostCtx) :
    hostsGet (hostsSet l h c) h = c := by
  induction l with
  | nil => simp [hostsSet, hostsGet]
  | cons x t ih =>
    obtain ⟨k, d⟩ := x
    simp only [hostsSet]
    split
    · simp [hostsGet]
    · split
      · simp [hostsGet]
      · have : k ≠ h := fun e => by subst e; contradiction
        simp [hostsGet, this, ih]

theorem hostsGet_hostsSet_other (l : List (Nat × HostCtx)) {h k : Nat} (c : HostCtx) (hk : k ≠ h) :
    hostsGet (hostsSet l h c) k = hostsGet l k := by
  induction l with
  | nil => simp [hostsSet, hostsGet, hk.symm]
  | cons x t ih =>
    obtain ⟨j, d⟩ := x
    simp only [hostsSet]
    split
    · simp [hostsGet, hk.symm]
    · split
      · rename_i _ e
        subst e
        simp [hostsGet, hk.symm]
      · simp only [hostsGet, ih]

/-- Of two writes of one context the later counts. -/
@[simp] theorem hostsSet_hostsSet (l : List (Nat × HostCtx)) (h : Nat) (c d : HostCtx) :
    hostsSet (hostsSet l h c) h d = hostsSet l h d := by
  induction l with
  | nil => simp [hostsSet]
  | cons x t ih =>
    obtain ⟨j, e⟩ := x
    by_cases h1 : h < j
    · simp [hostsSet, h1]
    · by_cases h2 : h = j
      · simp [hostsSet, h2]
      · simp [hostsSet, h1, h2, ih]

theorem mem_hostsSet_fst (l : List (Nat × HostCtx)) (h : Nat) (c : HostCtx) (k : Nat) :
    k ∈ (hostsSet l h c).map Prod.fst → k = h ∨ k ∈ l.map Prod.fst := by
  induction l with
  | nil => simp [hostsSet]
  | cons x t ih =>
    obtain ⟨j, e⟩ := x
    simp only [hostsSet]
    split
    · simp
    · split
      · rename_i _ e
        subst e
        simp
      · simp only [List.map_cons, List.mem_cons]
        rintro (rfl | hk)
        · simp
        · rcases ih hk with rfl | hk
          · simp
          · exact .inr (.inr hk)

/-- Writing a context keeps the ids strictly rising. -/
theorem hostsSet_sorted (l : List (Nat × HostCtx)) (h : Nat) (c : HostCtx) (hl : hostsSorted l) :
    hostsSorted (hostsSet l h c) := by
  induction l with
  | nil => simp [hostsSet, hostsSorted]
  | cons x t ih =>
    obtain ⟨j, e⟩ := x
    simp only [hostsSorted, List.map_cons, List.pairwise_cons] at hl ih ⊢
    simp only [hostsSet]
    split
    · rename_i hj
      simp only [List.map_cons, List.pairwise_cons, List.mem_cons]
      refine ⟨?_, hl⟩
      rintro k (rfl | hk)
      · exact hj
      · exact hj.trans (hl.1 k hk)
    · split
      · rename_i _ hj
        subst hj
        simpa using hl
      · rename_i h1 h2
        simp only [List.map_cons, List.pairwise_cons]
        refine ⟨fun k hk => ?_, ih hl.2⟩
        rcases mem_hostsSet_fst t h c k hk with rfl | hk
        · omega
        · exact hl.1 k hk

@[simp] theorem State.setHost_host_same (s : State) (h : Nat) (c : HostCtx) : (s.setHost h c).host h = c := by
  simp [State.host]

theorem State.setHost_host_other (s : State) {h k : Nat} (c : HostCtx) (hk : k ≠ h) :
    (s.setHost h c).host k = s.host k := by
  simp [State.host, hostsGet_hostsSet_other _ _ hk]

@[simp] theorem State.setHost_setHost (s : State) (h : Nat) (c d : HostCtx) :
    (s.setHost h c).setHost h d = s.setHost h d := by
  simp [State.setHost]

/-- A context's record does not meet the registers: the two writes may be exchanged. -/
theorem State.setHost_regWrite (s : State) (h : Nat) (c : HostCtx) (r : Reg) (v : Word) :
    (s.setHost h c).regWrite r v = (s.regWrite r v).setHost h c := by
  rcases r with _ | ⟨_ | _⟩ <;> rfl

theorem State.setHost_afterRead (s : State) (h : Nat) (c : HostCtx) (r : Reg) :
    (s.setHost h c).afterRead r = (s.afterRead r).setHost h c := by
  rcases r with _ | ch
  · cases e : s.params.unnamedRead <;> simp [State.afterRead, e, State.setHost]
  · rfl

@[simp] theorem State.setHost_regValue (s : State) (h : Nat) (c : HostCtx) (r : Reg) :
    (s.setHost h c).regValue r = s.regValue r := by
  rcases r with _ | ⟨_ | _⟩ <;> rfl

@[simp] theorem State.setHost_reg (s : State) (h : Nat) (c : HostCtx) (r : Reg) :
    (s.setHost h c).reg r = s.reg r := by
  rcases r with _ | ⟨_ | _⟩ <;> rfl

theorem State.setHost_mark (s : State) (h : Nat) (c : HostCtx) (r : RefuseReason) :
    (s.setHost h c).mark r = (s.mark r).setHost h c := rfl

@[simp] theorem State.setHost_accessorOpen_fst (s : State) (h : Nat) (c : HostCtx) :
    (s.setHost h c).accessorOpen.1 = s.accessorOpen.1 := by
  cases e : s.openAnswers <;> simp [State.accessorOpen, e]

@[simp] theorem State.setHost_accessorOpen_snd (s : State) (h : Nat) (c : HostCtx) :
    (s.setHost h c).accessorOpen.2 = s.accessorOpen.2.setHost h c := by
  cases e : s.openAnswers <;> simp [State.accessorOpen, e] <;> rfl

@[simp] theorem State.setHost_accessorMap_fst (s : State) (h : Nat) (c : HostCtx) :
    (s.setHost h c).accessorMap.1 = s.accessorMap.1 := by
  cases e : s.mapAnswers <;> simp [State.accessorMap, e]

@[simp] theorem State.setHost_accessorMap_snd (s : State) (h : Nat) (c : HostCtx) :
    (s.setHost h c).accessorMap.2 = s.accessorMap.2.setHost h c := by
  cases e : s.mapAnswers <;> simp [State.accessorMap, e] <;> rfl

/-! ## A context that stands before a line: what later operations read and do -/

@[simp] theorem State.toLine_regValue (s : State) (h : Nat) (cmd : Instr) (n : Nat) (l : Locals) (r : Reg) :
    (s.toLine h cmd n l).regValue r = s.regValue r := by simp [State.toLine_eq]
@[simp] theorem State.toLine_params (s : State) (h : Nat) (cmd : Instr) (n : Nat) (l : Locals) :
    (s.toLine h cmd n l).params = s.params := rfl
@[simp] theorem State.toLine_handle (s : State) (h : Nat) (cmd : Instr) (n : Nat) (l : Locals) :
    ((s.toLine h cmd n l).host h).handle = (s.host h).handle := by simp [State.toLine_eq]
@[simp] theorem State.toLine_afterRead (s : State) (h : Nat) (cmd : Instr) (n : Nat) (l : Locals) (r : Reg) :
    (s.toLine h cmd n l).afterRead r = (s.afterRead r).toLine h cmd n l := by
  simp [State.toLine_eq, State.setHost_afterRead]
@[simp] theorem State.toLine_regWrite (s : State) (h : Nat) (cmd : Instr) (n : Nat) (l : Locals) (r : Reg) (v : Word) :
    (s.toLine h cmd n l).regWrite r v = (s.regWrite r v).toLine h cmd n l := by
  simp [State.toLine_eq, State.setHost_regWrite]
@[simp] theorem State.toLine_toLine (s : State) (h : Nat) (cmd cmd' : Instr) (n n' : Nat) (l l' : Locals) :
    (s.toLine h cmd n l).toLine h cmd' n' l' = s.toLine h cmd' n' l' := by
  simp [State.toLine_eq]
@[simp] theorem State.toLine_finish (s : State) (h : Nat) (cmd : Instr) (n : Nat) (l : Locals) (r : Response) :
    (s.toLine h cmd n l).finish h r = s.finish h r := by
  simp [State.toLine_eq, State.finish_eq]
@[simp] theorem State.toLine_refuse (s : State) (h : Nat) (cmd : Instr) (n : Nat) (l : Locals) (r : RefuseReason) :
    (s.toLine h cmd n l).refuse h r = s.refuse h r := by
  simp [State.toLine_eq, State.refuse_eq, State.setHost_mark]
@[simp] theorem State.toLine_accessorOpen_fst (s : State) (h : Nat) (cmd : Instr) (n : Nat) (l : Locals) :
    (s.toLine h cmd n l).accessorOpen.1 = s.accessorOpen.1 := by simp [State.toLine_eq]
@[simp] theorem State.toLine_accessorOpen_snd (s : State) (h : Nat) (cmd : Instr) (n : Nat) (l : Locals) :
    (s.toLine h cmd n l).accessorOpen.2 = s.accessorOpen.2.toLine h cmd n l := by simp [State.toLine_eq]
@[simp] theorem State.toLine_accessorMap_fst (s : State) (h : Nat) (cmd : Instr) (n : Nat) (l : Locals) :
    (s.toLine h cmd n l).accessorMap.1 = s.accessorMap.1 := by simp [State.toLine_eq]
@[simp] theorem State.toLine_accessorMap_snd (s : State) (h : Nat) (cmd : Instr) (n : Nat) (l : Locals) :
    (s.toLine h cmd n l).accessorMap.2 = s.accessorMap.2.toLine h cmd n l := by simp [State.toLine_eq]

/-- A value read after a write of the same register, with plain storage (20_memory R56). -/
theorem State.regWrite_regValue_storage (s : State) (v : Word) (hs : s.params.unnamedRead = .storage) :
    (s.regWrite .ctrl v).regValue .ctrl = v := by
  simp [State.regWrite, State.regValue, hs]

/-- With plain storage a read changes nothing (20_memory R60). -/
theorem State.afterRead_storage (s : State) (r : Reg) (hs : s.params.unnamedRead = .storage) : s.afterRead r = s := by
  rcases r with _ | ch <;> simp [State.afterRead, hs]

/-- Line 0 with a handle goes on. -/
theorem State.requireHandle_some (s : State) (h : Nat) (next : State) (hh : (s.host h).handle ≠ none) :
    s.requireHandle h next = next := by
  unfold State.requireHandle
  cases e : (s.host h).handle with
  | none => exact absurd e hh
  | some _ => rfl

/-- Line 0 without a handle is the error NotInitialized. -/
theorem State.requireHandle_none (s : State) (h : Nat) (next : State) (hh : (s.host h).handle = none) :
    s.requireHandle h next = s.raise h .notInitialized := by
  simp [State.requireHandle, hh]

end Sys2Proof.Machine
end

