-- ==== Sys2Proof/Laws/Run.lean ====
section
/-! SUPPORT. Running a command: what one line may change, and `exec` as the run of a command's lines. -/

namespace Sys2Proof.Machine

@[simp] theorem runLines_zero (body : Body) (h : Nat) (s : State) : runLines body h 0 s = s := rfl

theorem runLines_idle (body : Body) (h k : Nat) (s : State) (hi : (s.host h).ctl = .idle) :
    runLines body h k s = s := by
  cases k <;> simp [runLines, hi]

theorem runLines_busy (body : Body) (h k : Nat) (s : State) {cmd : Instr} {n : Nat} {l : Locals}
    (hb : (s.host h).ctl = .busy cmd n l) : runLines body h (k + 1) s = runLines body h k (body h n l s) := by
  simp [runLines, hb]

/-- A context that stands before line `n` executes it next. -/
@[simp] theorem runLines_toLine (body : Body) (h k : Nat) (s : State) (cmd : Instr) (n : Nat) (l : Locals) :
    runLines body h (k + 1) (s.toLine h cmd n l) = runLines body h k (body h n l (s.toLine h cmd n l)) :=
  runLines_busy (cmd := cmd) body h k _ (by simp [State.toLine_eq])

/-- A command that has ended executes no further line. -/
@[simp] theorem runLines_finish (body : Body) (h k : Nat) (s : State) (r : Response) :
    runLines body h k (s.finish h r) = s.finish h r :=
  runLines_idle body h k _ (by simp [State.finish_eq])

@[simp] theorem runLines_refuse (body : Body) (h k : Nat) (s : State) (r : RefuseReason) :
    runLines body h k (s.refuse h r) = s.refuse h r :=
  runLines_idle body h k _ (by simp [State.refuse_eq])

@[simp] theorem runLines_complete (body : Body) (h k : Nat) (s : State) (d : Option Word) :
    runLines body h k (s.complete h d) = s.complete h d := runLines_finish body h k s _

@[simp] theorem runLines_raise (body : Body) (h k : Nat) (s : State) (e : Status) :
    runLines body h k (s.raise h e) = s.raise h e := runLines_finish body h k s _

theorem runCommand_idle (cmd : Instr) (body : Body) (k : Nat) (s : State) (hi : (s.host s.cur).ctl = .idle) :
    runCommand cmd body k s = .next (runLines body s.cur k (s.toLine s.cur cmd 1 {})) := by
  simp [runCommand, hi, State.issue]

theorem runCommand_busy (cmd : Instr) (body : Body) (k : Nat) (s : State) (hb : (s.host s.cur).ctl ≠ .idle) :
    runCommand cmd body k s = .refused .commandWhileBusy := by
  unfold runCommand
  split
  · contradiction
  · rfl

/-- `exec` runs the lines of the command, whatever the command. -/
theorem exec_eq_runCommand (i : Instr) (s : State) : exec i s = runCommand i (line i) (lineCount i) s := by
  cases i <;> rfl

/-- Executing one line of the command under way. -/
theorem State.advance_busy (s : State) (h : Nat) {cmd : Instr} {n : Nat} {l : Locals}
    (hb : (s.host h).ctl = .busy cmd n l) : s.advance h = line cmd h n l s := by
  simp [State.advance, hb]

theorem State.advance_idle (s : State) (h : Nat) (hi : (s.host h).ctl = .idle) : s.advance h = s := by
  simp [State.advance, hi]

/-- Line 0 of every command but INIT, without a handle: the error NotInitialized (60_exceptions R201). -/
theorem line_first_noHandle (i : Instr) (hi : i ≠ .init) (h : Nat) (l : Locals) (s : State)
    (hh : (s.host h).handle = none) : line i h 1 l s = s.raise h .notInitialized := by
  cases i with
  | init => exact absurd rfl hi
  | setpol _ _ => exact State.requireHandle_none s h _ hh
  | config _ _ _ => exact State.requireHandle_none s h _ hh
  | enable _ => exact State.requireHandle_none s h _ hh
  | disable _ => exact State.requireHandle_none s h _ hh
  | rdreg _ => exact State.requireHandle_none s h _ hh
  | wrreg _ _ => exact State.requireHandle_none s h _ hh

/-- Line 0 of every command but INIT, with a handle: the next line. -/
theorem line_first_handle (i : Instr) (hi : i ≠ .init) (h : Nat) (l : Locals) (s : State)
    (hh : (s.host h).handle ≠ none) : line i h 1 l s = s.toLine h i 2 l := by
  cases i with
  | init => exact absurd rfl hi
  | setpol _ _ => exact State.requireHandle_some s h _ hh
  | config _ _ _ => exact State.requireHandle_some s h _ hh
  | enable _ => exact State.requireHandle_some s h _ hh
  | disable _ => exact State.requireHandle_some s h _ hh
  | rdreg _ => exact State.requireHandle_some s h _ hh
  | wrreg _ _ => exact State.requireHandle_some s h _ hh

/-- Every command has at least three lines. -/
theorem lineCount_eq_add (i : Instr) : ∃ k, lineCount i = k + 3 := by
  cases i <;> exact ⟨_, rfl⟩

/-- A command of a context with a handle, issued when the context is idle, passes its line 0. -/
theorem exec_handle (i : Instr) (hi : i ≠ .init) (s : State) (hidle : (s.host s.cur).ctl = .idle)
    (hh : (s.host s.cur).handle ≠ none) :
    exec i s = .next (runLines (line i) s.cur (lineCount i - 1) (s.toLine s.cur i 2 {})) := by
  obtain ⟨k, hk⟩ := lineCount_eq_add i
  rw [exec_eq_runCommand, runCommand_idle _ _ _ _ hidle, hk, runLines_toLine,
    line_first_handle i hi _ _ _ (by simpa [State.toLine_eq] using hh)]
  simp [State.toLine_eq]

end Sys2Proof.Machine
end

