-- ==== Sys2Proof/Laws/Lines.lean ====
section
/-! SUPPORT. Everything one labelled line can do, said once, and from it what a line leaves alone. -/

namespace Sys2Proof.Machine

/-- What a line may do to its context: the command ends, or the context stands before the next line. -/
def NextCtl (cmd : Instr) (n : Nat) (c : Ctl) : Prop := c = .idle ∨ ∃ l, c = .busy cmd (n + 1) l

/-- What a line of `cmd` for context `h` may do to the state `s`: the state `t` differs from `s` in the registers, the
mark, the accessor's answers and the draws alone, until the record `c` of context `h` replaces its old one; the command
goes on or ends; the handle changes only at INIT's line 5. -/
structure LineEffect (cmd : Instr) (h n : Nat) (s t : State) (c : HostCtx) : Prop where
  hosts    : t.hosts = s.hosts
  params   : t.params = s.params
  cur      : t.cur = s.cur
  input    : t.input = s.input
  refusals : t.refusals = s.refusals ∨ ∃ r, t.refusals = r :: s.refusals
  ctl      : NextCtl cmd n c.ctl
  handle   : c.handle = (s.host h).handle ∨ (cmd = .init ∧ n = 5)

/-- A line that writes nothing but its context's record. -/
theorem LineEffect.refl {cmd : Instr} {h n : Nat} {s : State} {c : HostCtx} (hc : NextCtl cmd n c.ctl)
    (hh : c.handle = (s.host h).handle) : LineEffect cmd h n s s c :=
  ⟨rfl, rfl, rfl, rfl, .inl rfl, hc, .inl hh⟩

/-- The effect of going to the next line from a state that differs from `s` in registers, answers and draws alone. -/
theorem lineEffect_toLine {cmd : Instr} {h n : Nat} {s t : State} (l : Locals) (h1 : t.hosts = s.hosts)
    (h2 : t.params = s.params) (h3 : t.cur = s.cur) (h4 : t.input = s.input) (h5 : t.refusals = s.refusals) :
    ∃ t' c, t.toLine h cmd (n + 1) l = t'.setHost h c ∧ LineEffect cmd h n s t' c :=
  ⟨t, _, rfl, h1, h2, h3, h4, .inl h5, .inr ⟨l, rfl⟩, .inl (by simp [State.host, h1])⟩

/-- The effect of ending the command with a response. -/
theorem lineEffect_finish {cmd : Instr} {h n : Nat} {s t : State} (r : Response) (h1 : t.hosts = s.hosts)
    (h2 : t.params = s.params) (h3 : t.cur = s.cur) (h4 : t.input = s.input) (h5 : t.refusals = s.refusals) :
    ∃ t' c, t.finish h r = t'.setHost h c ∧ LineEffect cmd h n s t' c :=
  ⟨t, _, rfl, h1, h2, h3, h4, .inl h5, .inl rfl, .inl (by simp [State.host, h1])⟩

/-- The effect of a refusal. -/
theorem lineEffect_refuse {cmd : Instr} {h n : Nat} {s : State} (r : RefuseReason) :
    ∃ t' c, s.refuse h r = t'.setHost h c ∧ LineEffect cmd h n s t' c :=
  ⟨s.mark r, _, rfl, rfl, rfl, rfl, rfl, .inr ⟨r, rfl⟩, .inl rfl, .inl rfl⟩

/-- The effect of line 0. -/
theorem lineEffect_requireHandle {cmd : Instr} {h n : Nat} {s : State} (l : Locals) :
    ∃ t' c, s.requireHandle h (s.toLine h cmd (n + 1) l) = t'.setHost h c ∧ LineEffect cmd h n s t' c := by
  unfold State.requireHandle
  split
  · exact lineEffect_finish _ rfl rfl rfl rfl rfl
  · exact lineEffect_toLine _ rfl rfl rfl rfl rfl

/-- Everything one labelled line can do, for every command, line number, locals and state. -/
theorem line_effect (cmd : Instr) (h n : Nat) (l : Locals) (s : State) :
    ∃ t c, line cmd h n l s = t.setHost h c ∧ LineEffect cmd h n s t c := by
  cases cmd with
  | init =>
    simp only [line, lineInit]
    split
    · split
      · exact lineEffect_finish _ (by simp) (by simp) (by simp) (by simp) (by simp)
      · exact lineEffect_toLine _ (by simp) (by simp) (by simp) (by simp) (by simp)
    · exact lineEffect_toLine _ rfl rfl rfl rfl rfl
    · exact lineEffect_toLine _ rfl rfl rfl rfl rfl
    · split
      · exact lineEffect_finish _ (by simp) (by simp) (by simp) (by simp) (by simp)
      · exact lineEffect_toLine _ (by simp) (by simp) (by simp) (by simp) (by simp)
    · refine ⟨s, _, by rw [State.toLine_eq, State.setHandle_eq, State.setHost_setHost], ?_⟩
      exact ⟨rfl, rfl, rfl, rfl, .inl rfl, .inr ⟨l, rfl⟩, .inr ⟨rfl, rfl⟩⟩
    · exact lineEffect_toLine _ rfl rfl rfl rfl rfl
    · exact lineEffect_finish _ rfl rfl rfl rfl rfl
  | setpol ch pol =>
    simp only [line, lineSetpol]
    split
    · exact lineEffect_requireHandle _
    · exact lineEffect_toLine _ (by simp [State.regRead]) (by simp [State.regRead]) (by simp [State.regRead])
        (by simp [State.regRead]) (by simp [State.regRead])
    · exact lineEffect_toLine _ (by simp) (by simp) (by simp) (by simp) (by simp)
    · exact lineEffect_finish _ rfl rfl rfl rfl rfl
  | config ch p d =>
    simp only [line, lineConfig]
    split
    · exact lineEffect_requireHandle _
    · split
      · exact lineEffect_refuse _
      · exact lineEffect_toLine _ rfl rfl rfl rfl rfl
    · split
      · exact lineEffect_finish _ rfl rfl rfl rfl rfl
      · exact lineEffect_toLine _ rfl rfl rfl rfl rfl
    · exact lineEffect_toLine _ (by simp [State.regRead]) (by simp [State.regRead]) (by simp [State.regRead])
        (by simp [State.regRead]) (by simp [State.regRead])
    · exact lineEffect_toLine _ (by simp [State.regRead]) (by simp [State.regRead]) (by simp [State.regRead])
        (by simp [State.regRead]) (by simp [State.regRead])
    · exact lineEffect_toLine _ (by simp) (by simp) (by simp) (by simp) (by simp)
    · exact lineEffect_toLine _ (by simp [State.regRead]) (by simp [State.regRead]) (by simp [State.regRead])
        (by simp [State.regRead]) (by simp [State.regRead])
    · exact lineEffect_toLine _ (by simp) (by simp) (by simp) (by simp) (by simp)
    · exact lineEffect_toLine _ (by simp) (by simp) (by simp) (by simp) (by simp)
    · split
      · exact lineEffect_toLine _ (by simp [State.regRead]) (by simp [State.regRead]) (by simp [State.regRead])
          (by simp [State.regRead]) (by simp [State.regRead])
      · exact lineEffect_toLine _ rfl rfl rfl rfl rfl
    · split
      · exact lineEffect_toLine _ (by simp) (by simp) (by simp) (by simp) (by simp)
      · exact lineEffect_toLine _ rfl rfl rfl rfl rfl
    · exact lineEffect_finish _ rfl rfl rfl rfl rfl
  | enable ch =>
    simp only [line, lineEnable]
    split
    · exact lineEffect_requireHandle _
    · exact lineEffect_toLine _ (by simp [State.regRead]) (by simp [State.regRead]) (by simp [State.regRead])
        (by simp [State.regRead]) (by simp [State.regRead])
    · exact lineEffect_toLine _ (by simp) (by simp) (by simp) (by simp) (by simp)
    · exact lineEffect_finish _ rfl rfl rfl rfl rfl
  | disable ch =>
    simp only [line, lineDisable]
    split
    · exact lineEffect_requireHandle _
    · exact lineEffect_toLine _ (by simp [State.regRead]) (by simp [State.regRead]) (by simp [State.regRead])
        (by simp [State.regRead]) (by simp [State.regRead])
    · exact lineEffect_toLine _ (by simp) (by simp) (by simp) (by simp) (by simp)
    · exact lineEffect_finish _ rfl rfl rfl rfl rfl
  | rdreg off =>
    simp only [line, lineRdreg]
    split
    · exact lineEffect_requireHandle _
    · split
      · exact lineEffect_refuse _
      · rename_i r hr
        obtain ⟨q, -, rfl⟩ := Option.map_eq_some_iff.mp hr
        exact lineEffect_toLine _ (by simp [State.regRead]) (by simp [State.regRead]) (by simp [State.regRead])
          (by simp [State.regRead]) (by simp [State.regRead])
    · exact lineEffect_finish _ rfl rfl rfl rfl rfl
  | wrreg off data =>
    simp only [line, lineWrreg]
    split
    · exact lineEffect_requireHandle _
    · split
      · exact lineEffect_refuse _
      · rename_i t ht
        obtain ⟨q, -, rfl⟩ := Option.map_eq_some_iff.mp ht
        exact lineEffect_toLine _ (by simp) (by simp) (by simp) (by simp) (by simp)
    · exact lineEffect_finish _ rfl rfl rfl rfl rfl

/-- A line leaves every other context alone. -/
theorem line_host_other (cmd : Instr) (h n : Nat) (l : Locals) (s : State) {k : Nat} (hk : k ≠ h) :
    (line cmd h n l s).host k = s.host k := by
  obtain ⟨t, c, e, he⟩ := line_effect cmd h n l s
  rw [e, State.setHost_host_other _ _ hk, State.host, he.hosts, State.host]

/-- A line changes no parameter, takes nothing from the input and does not change whose command is run. -/
theorem line_params (cmd : Instr) (h n : Nat) (l : Locals) (s : State) : (line cmd h n l s).params = s.params := by
  obtain ⟨t, c, e, he⟩ := line_effect cmd h n l s
  rw [e, State.setHost_params, he.params]

theorem line_input (cmd : Instr) (h n : Nat) (l : Locals) (s : State) : (line cmd h n l s).input = s.input := by
  obtain ⟨t, c, e, he⟩ := line_effect cmd h n l s
  rw [e, State.setHost_input, he.input]

theorem line_cur (cmd : Instr) (h n : Nat) (l : Locals) (s : State) : (line cmd h n l s).cur = s.cur := by
  obtain ⟨t, c, e, he⟩ := line_effect cmd h n l s
  rw [e, State.setHost_cur, he.cur]

end Sys2Proof.Machine
end

