-- ==== Sys2Proof/Laws/PerInstr.lean ====
section
/-! SUPPORT. One lemma per command, for the statements about commands as syntax. -/

/-- The decoder tells a command's length from its command word alone (30_encoding R88). -/
def Sys2Proof.Laws.CommandLength.Statement (i : Sys2Proof.Instr) : Prop :=
  ∃ cw ops, Sys2Proof.encode i = cw :: ops ∧ Sys2Proof.wordCount cw = ops.length + 1

namespace Sys2Proof.Laws

/-- `OP` of a command word put together from its fields. -/
theorem opField_commandWord (op : Word) (ch pol : BitVec 1) (off : BitVec 8) :
    opField (commandWord op ch pol off) = opField op := by
  apply BitVec.eq_of_getLsbD_eq
  intro k hk
  have h4 : k < 4 := hk
  have h5 : k < 5 := by omega
  have h8 : k < 8 := by omega
  simp [opField, commandWord, h4, h5, h8]

theorem wordCount_commandWord (op : Word) (ch pol : BitVec 1) (off : BitVec 8) :
    wordCount (commandWord op ch pol off) = wordCount op := by
  simp [wordCount, opField_commandWord]

theorem CommandLength.init : CommandLength.Statement .init :=
  ⟨_, _, rfl, by rw [wordCount_commandWord]; rfl⟩
theorem CommandLength.setpol (ch : Channel) (pol : Polarity) : CommandLength.Statement (.setpol ch pol) :=
  ⟨_, _, rfl, by rw [wordCount_commandWord]; rfl⟩
theorem CommandLength.config (ch : Channel) (p d : BitVec 64) : CommandLength.Statement (.config ch p d) :=
  ⟨_, _, rfl, by rw [wordCount_commandWord]; rfl⟩
theorem CommandLength.enable (ch : Channel) : CommandLength.Statement (.enable ch) :=
  ⟨_, _, rfl, by rw [wordCount_commandWord]; rfl⟩
theorem CommandLength.disable (ch : Channel) : CommandLength.Statement (.disable ch) :=
  ⟨_, _, rfl, by rw [wordCount_commandWord]; rfl⟩
theorem CommandLength.rdreg (off : BitVec 8) : CommandLength.Statement (.rdreg off) :=
  ⟨_, _, rfl, by rw [wordCount_commandWord]; rfl⟩
theorem CommandLength.wrreg (off : BitVec 8) (data : Word) : CommandLength.Statement (.wrreg off data) :=
  ⟨_, _, rfl, by rw [wordCount_commandWord]; rfl⟩

end Sys2Proof.Laws
end

