-- ==== Sys2Proof/Laws/Step.lean ====
section
/-! SUPPORT. What a step does, said once by what stands at the head of the input. -/

namespace Sys2Proof.Machine

theorem step_noInput (s : State) (hi : s.input = []) : step s = .next s := by
  simp only [step, hi]

theorem step_knownHost (s : State) (e : Event) (rest : List Event) (hi : s.input = e :: rest)
    (hh : e.host ∈ s.params.hosts) : step s = s.runEvent e rest := by
  simp only [step, hi, if_pos hh]

theorem step_unknownHost (s : State) (e : Event) (rest : List Event) (hi : s.input = e :: rest)
    (hh : e.host ∉ s.params.hosts) : step s = .next (s.dropEvent rest) := by
  simp only [step, hi, if_neg hh]

/-- Everything a step can be. -/
theorem step_cases (s : State) :
    (s.input = [] ∧ step s = .next s) ∨
    ∃ e rest, s.input = e :: rest ∧
      ((e.host ∈ s.params.hosts ∧ step s = s.runEvent e rest) ∨
        (e.host ∉ s.params.hosts ∧ step s = .next (s.dropEvent rest))) := by
  cases hi : s.input with
  | nil => exact .inl ⟨rfl, step_noInput s hi⟩
  | cons e rest =>
    refine .inr ⟨e, rest, rfl, ?_⟩
    by_cases hh : e.host ∈ s.params.hosts
    · exact .inl ⟨hh, step_knownHost s e rest hi hh⟩
    · exact .inr ⟨hh, step_unknownHost s e rest hi hh⟩

end Sys2Proof.Machine
end

