-- ==== Sys2Proof/Tests/Slice0.lean ====
section
/-! SUPPORT. The model's own tests: expected results are the spec's vectors (95_test_vectors, named in each docstring) or
worked out by hand from its rules; and for each statement with hypotheses a concrete state and operands that meet them. -/

namespace Sys2Proof.Tests

open Sys2Proof Sys2Proof.Machine Sys2Proof.Claims

/-! ## Helpers -/

/-- A host context with a handle and no command under way. -/
def mappedHost : HostCtx := { handle := some 0xB6F00E00, ctl := .idle, responses := [] }

/-- A machine whose contexts 0 and 1 hold handles, with the given CTRL; `PAGE_SIZE` 4096; HOSTS is 0 and 1. -/
def machine (c : Word) : State :=
  { State.powerOn { pageExp := 8, unnamedRead := .storage, firstHost := 0, moreHosts := [1] } c 0 0 with hosts := [(0, mappedHost), (1, mappedHost)] }

/-- A machine whose context 0 has no handle, with the accessor's next answers and an exponent of the page size. -/
def unmapped (e : Nat) (os : List OpenAnswer) (ms : List MapAnswer) : State :=
  { State.powerOn { pageExp := e, unnamedRead := .storage, firstHost := 0, moreHosts := [] } 0x12345678 0xAAAAAAAA 0x55555555 with
    openAnswers := os, mapAnswers := ms }

/-- The next state of an outcome. -/
def after (o : Host.Outcome State Fault Refusal) : Option State :=
  match o with
  | .next t => some t
  | .fault _ => none
  | .refused _ => none

/-- What a command leaves in CTRL, and the newest response of context 0. -/
def ctrlAndResponse (o : Host.Outcome State Fault Refusal) : Option (Word × Option Response) :=
  (after o).map fun t => (t.ctrl, (t.host 0).responses.head?)

/-! ## Well-formedness: an ill-formed term for each check -/

theorem smoke_rdreg_bad_offset : (Instr.rdreg 0x0C).wf = false := by decide
theorem smoke_wrreg_bad_offset : (Instr.wrreg 0x01 0).wf = false := by decide
theorem smoke_rdreg_good_offset : (Instr.rdreg 0x08).wf = true := by decide

/-! ## Decoding: words written out bit by bit from 30_encoding R84, and the vectors V-K01 to V-K14 -/

theorem test_decode_init : decode [0b00000000000000000000000000000001] = .ok .init := by decide
theorem test_decode_setpol : decode [0b00000000000000000000000000110010] = .ok (.setpol .ch1 .normal) := by decide
theorem test_decode_setpol_inverted : decode [0b00000000000000000000000000010010] = .ok (.setpol .ch1 .inverted) := by
  decide
theorem test_decode_config : decode [0b00000000000000000000000000010011, 1, 2, 3, 4] =
    .ok (.config .ch1 0x0000000200000001 0x0000000400000003) := by decide
theorem test_decode_enable : decode [0b00000000000000000000000000000100] = .ok (.enable .ch0) := by decide
theorem test_decode_disable : decode [0b00000000000000000000000000010101] = .ok (.disable .ch1) := by decide
theorem test_decode_rdreg : decode [0b00000000000000000000010000000110] = .ok (.rdreg 0x04) := by decide
theorem test_decode_wrreg : decode [0b00000000000000000000100000000111, 0x12345678] = .ok (.wrreg 0x08 0x12345678) := by
  decide

/-- V-K01 to V-K03. -/
theorem test_decode_reserved_opcode :
    [decode [0x00000000], decode [0x00000008], decode [0x0001000F]] = List.replicate 3 (.error .reservedOpcode) := by
  decide

/-- V-K04 to V-K08 and V-K14. -/
theorem test_decode_nonzero_reserved :
    [decode [0x00000011], decode [0x00000023], decode [0x00000043], decode [0x00000404], decode [0x00010001],
      decode [0x00000016]] = List.replicate 6 (.error .nonZeroReserved) := by decide

/-- V-K09, V-K10. -/
theorem test_decode_bad_offset : [decode [0x00000C06], decode [0x00000106]] = List.replicate 2 (.error .badOffset) := by
  decide

/-- The order of R86: a bad word is refused for its bits before its missing operands are noticed (log 10). -/
theorem test_decode_operand_count :
    [decode [], decode [0x00000003], decode [0x00000004, 0], decode [0x00000C07]] =
      [.error .operandCount, .error .operandCount, .error .operandCount, .error .badOffset] := by decide

theorem test_tableWord_wrreg : decodeTableWord 32 0x00000807 = some (.wrreg 0x08 0) := by decide
theorem test_tableWord_config :
    decodeTableWord 160 (0x00000003 + 20000000 * 2 ^ 32 + 1500000 * 2 ^ 96) = some (.config .ch0 20000000 1500000) := by
  decide

/-- 30_encoding R90. -/
theorem test_asm : [Instr.init.asm, (Instr.setpol .ch1 .inverted).asm, (Instr.config .ch0 20000000 1500000).asm] =
    ["initialize", "set_polarity 1, Inverted", "configure 0, 20000000, 1500000"] := by decide

/-! ## Fields, packing and the encoder -/

/-- V-F01 to V-F04. -/
theorem test_fields :
    (presc 0x003C007F .ch1, en 0x003C007F .ch1, act 0x003C007F .ch1, gate 0x003C007F .ch1) = (8, true, true, true) ∧
    presc 0x003C007F .ch0 = 15 ∧ withPresc 0xFFFFFFFF .ch0 3 = 0xFFFFFFF3 ∧
    withPresc 0x00000000 .ch1 15 = 0x00078000 := by decide

/-- V-F05 to V-F08. -/
theorem test_pack :
    pack 1 0 = 0x00000000 ∧ pack 65536 65535 = 0xFFFFFFFF ∧ unpack 0xFFFFFFFF = (65536, 65535) ∧
    pack 4000 300 = 0x0F9F012C ∧ pack 65536 65536 = 0xFFFF0000 := by decide

/-- The index, the ticks and the word of a TPE answer. -/
def tpeSummary (p d : Nat) : Option (Nat × Nat × Nat × Word) :=
  (tpe p d).map fun r => (r.idx.toNat, r.periodTicks, r.dutyTicks, r.word)

/-- V-E01, V-E14, V-E26, V-E27. -/
theorem test_tpe_accepts :
    tpeSummary 20000000 1500000 = some (0, 4000, 300, 0x0F9F012C) ∧
    tpeSummary 1310740000 0 = some (8, 2621, 0, 0x0A3C0000) ∧
    tpeSummary 20000500 1000000 = some (0, 4000, 199, 0x0F9F00C7) ∧
    tpeSummary 20000000 18446744073709551615 = some (0, 4000, 3689348814741910, 0x0F9F2196) := by decide

/-- V-E05, V-E17, V-E19. -/
theorem test_tpe_rejects :
    tpe 4999 0 = none ∧ tpe 196807807808 0 = none ∧ tpe 92233720373548 0 = none := by decide

/-! ## Commands -/

/-- V-I01 and V-I07: the handle is the mapping plus the offset, whether or not there was one before. -/
theorem test_init_maps :
    ((after (exec .init (unmapped 8 [.ok] [.ok 0xB6F00]))).map fun t => (t.host 0).handle) = some (some 0xB6F00E00) ∧
    ((after (exec .init { machine 0 with openAnswers := [.ok], mapAnswers := [.ok 0xA0000] })).map
      fun t => (t.host 0).handle) = some (some 0xA0000E00) := by decide

/-- V-I04 and V-I06, for every error code: which error, and the handle kept. -/
theorem test_init_errors (e : SysErr) :
    ((after (exec .init (unmapped 8 [.err e] []))).map fun t => t.host 0) =
      some { handle := none, ctl := .idle, responses := [{ status := .accessDenied e, data := none }] } ∧
    ((after (exec .init { machine 0 with openAnswers := [.ok], mapAnswers := [.err e] })).map fun t => t.host 0) =
      some { mappedHost with responses := [{ status := .mappingFailed e, data := none }] } := ⟨rfl, rfl⟩

/-- 20_memory R54 and 40_initialize R105: start, offset and length of the mapping for three page sizes. -/
theorem test_mapping_arithmetic :
    [(4096 : Nat), 65536, 16].map (fun p => (mapStart p, mapOffset p, mapLen p)) =
      [(0x01c20000, 0xe00, 0x2000), (0x01c20000, 0x0e00, 0x20000), (0x01c20e00, 0, 0x20)] := by decide

/-- V-P01 and V-P04. -/
theorem test_setpol :
    ctrlAndResponse (exec (.setpol .ch1 .inverted) (machine 0x003F807F)) = some (0x002F807F, some okResponse) ∧
    ctrlAndResponse (exec (.setpol .ch0 .normal) (machine 0x00000050)) = some (0x00000070, some okResponse) := by decide

/-- V-C04: the gate was on and is on again; the index and the period word are written. -/
theorem test_config_gated :
    ((after (exec (.config .ch1 2000000000 1000000000) (machine 0x003F807F))).map
      fun t => (t.ctrl, t.period0, t.period1)) = some (0x003C007F, 0, 0x0F9F07D0) := by decide

/-- V-C02 and V-C07: the gate was off and stays off; an unrepresentable period. -/
theorem test_config_not_gated :
    ctrlAndResponse (exec (.config .ch0 20000000 1500000) (machine 0)) = some (0, some okResponse) ∧
    ctrlAndResponse (exec (.config .ch0 4999 0) (machine 0x70)) =
      some (0x70, some { status := .periodUnrepresentable, data := none }) := by decide

/-- V-C12 and V-C13: the mark records the refusal, and the handle check comes first. -/
theorem test_config_zero_period :
    ((after (exec (.config .ch0 0 0) (machine 0))).map fun t => (t.refusals, (t.host 0).responses)) =
      some ([.periodZero], []) ∧
    ((after (exec (.config .ch0 0 0) (unmapped 8 [] []))).map fun t => (t.refusals, (t.host 0).responses)) =
      some ([], [{ status := .notInitialized, data := none }]) := by decide

/-- V-D02 and V-D10. -/
theorem test_enable :
    ctrlAndResponse (exec (.enable .ch1) (machine 0x00040000)) = some (0x002C0000, some okResponse) ∧
    ctrlAndResponse (exec (.enable .ch0) (machine 0x00000010)) = some (0x00000050, some okResponse) := by decide

/-- V-D04 and V-D03. -/
theorem test_disable :
    ctrlAndResponse (exec (.disable .ch1) (machine 0x003F8070)) = some (0x00178070, some okResponse) ∧
    ctrlAndResponse (exec (.disable .ch0) (machine 0x00000070)) = some (0x00000020, some okResponse) := by decide

/-- V-R01 and the example of 45_register_access R180. -/
theorem test_rdreg :
    ctrlAndResponse (exec (.rdreg 0x00) (unmapped 8 [] [])) =
      some (0x12345678, some { status := .notInitialized, data := none }) ∧
    ctrlAndResponse (exec (.rdreg 0x04) { machine 0 with period0 := 0x0F9F012C }) =
      some (0, some { status := .ok, data := some 0x0F9F012C }) := by decide

/-- V-R03 and V-R05. -/
theorem test_wrreg :
    ((after (exec (.wrreg 0x08 0x12345678) (machine 0))).map fun t => (t.ctrl, t.period0, t.period1)) =
      some (0, 0, 0x12345678) ∧
    ctrlAndResponse (exec (.wrreg 0x00 0x0000004F) (machine 0x40)) = some (0x0000004F, some okResponse) := by decide

/-- 60_exceptions R200, 30_encoding R89: the numeric codes, and the error code two of them carry. -/
theorem test_status_codes (e : SysErr) :
    [Status.ok, .notInitialized, .accessDenied e, .mappingFailed e, .periodUnrepresentable].map Status.code =
      [0, 1, 2, 3, 4] ∧
    (Status.accessDenied e).sysErr = some e ∧ (Status.mappingFailed e).sysErr = some e := ⟨rfl, rfl, rfl⟩

/-- 60_exceptions R219: the example of the rule. -/
theorem test_achieved_timing :
    State.achievedPeriodNs { machine 0 with period0 := 0x0F9F012C } .ch0 = 20000000 ∧
    State.achievedActiveNs { machine 0 with period0 := 0x0F9F012C } .ch0 = 1500000 := by
  have hp : unpack (State.period { machine 0 with period0 := 0x0F9F012C } .ch0) = (4000, 300) := by decide
  have hi : presc (State.ctrl { machine 0 with period0 := 0x0F9F012C }) .ch0 = 0 := by decide
  have ht : tickNs 0 = (120 : Nat) * 125 / 3 := rfl
  rw [State.achievedPeriodNs, State.achievedActiveNs, hp, hi, ht]
  norm_num

/-- 60_exceptions R216: 24 MHz over the divisor, at the first and the last valid index. -/
theorem test_tick_rate : tickRate 0 = 200000 ∧ tickRate 12 = 1000 / 3 := by
  have h0 : tickRate 0 = ((24000000 : Nat) : Rat) / ((120 : Nat) : Rat) := rfl
  have h12 : tickRate 12 = ((24000000 : Nat) : Rat) / ((72000 : Nat) : Rat) := rfl
  rw [h0, h12]
  norm_num

/-! ## Steps -/

/-- The very next step runs the word that was laid out (V-D01), from reset with a handle. -/
theorem test_step_runs_fetched_word :
    ctrlAndResponse (step ((machine 0x20).withFetchWord 32 0x00000004)) = some (0x70, some okResponse) := by decide

/-- A word that does not decode leaves a mark and no response (60_exceptions R205). -/
theorem test_step_marks_undecodable :
    ((after (step ((machine 0x20).withFetchWord 32 0x00000008))).map fun t => (t.ctrl, t.refusals, (t.host 0).responses))
      = some (0x20, [.illegalCommand .reservedOpcode], []) := by decide

/-- 43_configure R165: line 3b writes 0x30 over 0x70. -/
theorem test_advance_runs_one_line :
    ((after (step { machine 0x70 with
      hosts := [(0, { mappedHost with ctl := .busy (.config .ch0 20000000 1500000) 6 { v := 0x70, g := true } })]
      input := [.advance 0] })).map (·.ctrl)) = some 0x30 := by decide

/-! ## Witnesses: each statement's hypotheses are met -/

theorem witness_DecodeOfEncodeIsIdentity : (Instr.wrreg 0x08 0xFFFFFFFF).wf = true := by decide
theorem witness_DecodedWordsAreTheEncoding : decode [0x00000032] = .ok (.setpol .ch1 .normal) := by decide

/-- A boundary word for each clause of R86: reserved opcodes, must-be-zero bits, a bad offset, a good word, a word with
too few operands. -/
theorem witness_DecodeRefusesInOrder :
    ((0x00000000 : Word).toNat % 16 = 0 ∧ (0x00000008 : Word).toNat % 16 = 8 ∧ (0x0000000F : Word).toNat % 16 = 15) ∧
    ((0x00010007 : Word).toNat % 16 = 7 ∧ (0x00010007 : Word).toNat / 65536 ≠ 0) ∧
    ((0x00000C06 : Word).toNat % 16 = 6 ∧ (0x00000C06 : Word).toNat / 256 % 256 ≠ 8 ∧
      (0x00000C06 : Word).toNat / 64 % 4 = 0) ∧
    ([1] : List Word).length + 1 = wordCount 0x00000807 ∧ ([] : List Word).length + 1 ≠ wordCount 0x00000807 := by decide

theorem witness_PackUnpackRoundTrip : 1 ≤ 65536 ∧ 65536 ≤ 65536 ∧ 65535 ≤ 65535 := by decide

/-- Both ends of the representable periods, and one period beyond each. -/
theorem witness_WinningIndexByPeriodRange :
    (tpe 4999 0).isNone ∧ (tpe 5000 0).isSome ∧ (tpe 196807807807 0).isSome ∧ (tpe 196807807808 0).isNone := by decide

/-- V-E22, the one case in range where the stored duty wraps, and V-E03. -/
theorem witness_DutyTicksAndStoredDuty :
    tpeSummary 327680000 327680000 = some (0, 65536, 65536, 0xFFFF0000) ∧
    tpeSummary 5000 5000 = some (0, 1, 1, 0x00000001) := by decide

/-- The answer of the TPE in V-E01. -/
def servo : TpeResult := { idx := 0, periodTicks := 4000, dutyTicks := 300, word := 0x0F9F012C }

theorem witness_ready : ready (unmapped 8 [.ok] [.ok 0xB6F00]) := by unfold ready; decide
theorem witness_ready_mapped : ready (machine 0x003F807F) ∧ mapped (machine 0x003F807F) := by
  unfold ready mapped; decide
theorem witness_TpeReturnsSmallestIndexOrFails : 1 ≤ 20000000 ∧ tpe 20000000 1500000 = some servo := by decide
theorem witness_RdregReturnsRegister :
    ready (machine 0x70) ∧ mapped (machine 0x70) ∧
    ∀ x ∈ [((0x00 : BitVec 8), Reg.ctrl), (0x08, Reg.period .ch1)],
      x ∈ [((0x00 : BitVec 8), Reg.ctrl), (0x04, Reg.period .ch0), (0x08, Reg.period .ch1)] := by
  unfold ready mapped; decide
theorem witness_WrregWritesWholeRegister :
    ready (machine 0x70) ∧ mapped (machine 0x70) ∧ validOffset 0x00 = true ∧ validOffset 0x08 = true := by
  unfold ready mapped; decide

/-- For CommandsStartAndStopCounter, with the least and the greatest period word. -/
theorem witness_CommandsStartAndStopCounter :
    ready (machine 0x70) ∧ mapped (machine 0x70) ∧ (1 : BitVec 64) ≠ 0 ∧ BitVec.allOnes 64 ≠ 0 := by
  unfold ready mapped; decide

/-- Both values of the parameter, and two words that differ in an unnamed bit only. -/
theorem witness_UnnamedBitsReadAsParameterSays :
    (machine 0).params.unnamedRead = .storage ∧
    ({ machine 0 with params := { pageExp := 0, unnamedRead := .draw, firstHost := 0, moreHosts := [1] } } : State).params.unnamedRead = .draw ∧
    (0x00000080 : Word) &&& namedMask = 0x80000000 &&& namedMask := by decide

theorem witness_RegisterAccessTouchesOnlyItsRegister : Reg.period .ch1 ≠ Reg.period .ch0 := by decide

/-- The last byte of a register, and the addresses next to the block. -/
theorem witness_RegisterBytesAreLittleEndian :
    3 < 4 ∧ 0x01c20dff < 0x01c20e00 ∧ 0x01c20e0c ≤ 0x01c20e0c := by omega

/-- For ConfigNetEffect, ConfiguredFieldsAreValid, AchievedPeriodAtMostRequested and ConfigNeverGlitches. -/
theorem witness_config_ok :
    (ready (machine 0x70) ∧ mapped (machine 0x70)) ∧
    tpe (20000000 : BitVec 64).toNat (1500000 : BitVec 64).toNat = some servo := by
  unfold ready mapped; decide

/-- The hypotheses of ConfigNetEffect with the unnamed bits read as draws. -/
theorem witness_config_draw :
    ready { machine 0x70 with params := { pageExp := 0, unnamedRead := .draw, firstHost := 0, moreHosts := [1] } } ∧
    mapped { machine 0x70 with params := { pageExp := 0, unnamedRead := .draw, firstHost := 0, moreHosts := [1] } } := by
  unfold ready mapped; decide

theorem witness_ConfigUnrepresentablePeriodWritesNothing :
    ready (machine 0x70) ∧ mapped (machine 0x70) ∧
    (1 ≤ (1 : BitVec 64).toNat ∧ (4999 : BitVec 64).toNat < 5000) ∧
    196807807807 < (196807807808 : BitVec 64).toNat := by
  unfold ready mapped; decide

/-- A command that ends with the status, and the line that raises it. -/
theorem witness_PeriodUnrepresentableOnlyFromConfig :
    (ready (machine 0x70) ∧ mapped (machine 0x70) ∧ tpe (4999 : BitVec 64).toNat (0 : BitVec 64).toNat = none) ∧
    ctrlAndResponse (exec (.config .ch1 4999 0) (machine 0x70)) = some (0x70, some unrepresentableResponse) ∧
    ((line (.config .ch1 4999 0) 0 3 {} (machine 0x70)).host 0).responses =
      unrepresentableResponse :: ((machine 0x70).host 0).responses := by
  unfold ready mapped; decide

theorem witness_NoHandleMeansNotInitialized :
    Instr.rdreg 0x00 ≠ .init ∧ ready (unmapped 8 [] []) ∧
    ((unmapped 8 [] []).host (unmapped 8 [] []).cur).handle = none := by
  unfold ready; decide

theorem witness_BadOffsetRefusedBadAccess :
    ready (machine 0x70) ∧ mapped (machine 0x70) ∧ validOffset 0x0C = false ∧ validOffset 0x01 = false := by
  unfold ready mapped; decide

/-- Context 0 is executing CONFIG and stands before line 4b. -/
def configuring : State :=
  { machine 0x30 with
    hosts := [(0, { mappedHost with
      ctl := .busy (.config .ch0 20000000 1500000) 8 { v := 0x30, g := true, idx := 0, word := 0x0F9F012C } })] }

theorem witness_BusyContextCannotIssue : ¬ ready configuring := by unfold ready; decide

theorem witness_CommandsWriteOnlyTheirRegisters :
    (machine 0).params.unnamedRead = .storage ∧ (after (exec (.enable .ch0) (machine 0))).isSome := by decide

theorem witness_HandleTranslatesToRegisters :
    ready (unmapped 8 [.ok, .ok] [.ok 0xB6F00]) ∧ (unmapped 8 [.ok, .ok] [.ok 0xB6F00]).openAnswers = .ok :: [.ok] ∧
    (unmapped 8 [.ok, .ok] [.ok 0xB6F00]).mapAnswers = .ok 0xB6F00 :: [] := by
  unfold ready; decide

theorem witness_StepRunsDecodedCommand :
    ({ machine 0 with input := [.command 1 [0x00000014]] } : State).input = .command 1 [0x00000014] :: [] ∧
    1 ∈ (machine 0).params.hosts ∧
    (({ machine 0 with input := [.command 1 [0x00000014]] } : State).host 1).ctl = .idle ∧ decode [0x00000014] = .ok (.enable .ch1) := by decide

theorem witness_FetchedWordRunsNext :
    ready State.reset ∧ State.reset.cur ∈ State.reset.params.hosts ∧ decodeTableWord 32 0x00000006 = some (.rdreg 0x00) := by
  unfold ready; decide

theorem witness_UndecodableCommandIsMarked :
    ({ machine 0 with input := [.issue 0 [0x00000106]] } : State).input = .issue 0 [0x00000106] :: [] ∧
    0 ∈ (machine 0).params.hosts ∧
    (({ machine 0 with input := [.issue 0 [0x00000106]] } : State).host 0).ctl = .idle ∧
    decode [0x00000106] = .error .badOffset := by decide

theorem witness_BusyContextFinishesFirst :
    ({ configuring with input := [.command 0 [0x00000004]] } : State).input = .command 0 [0x00000004] :: [] ∧
    0 ∈ configuring.params.hosts ∧
    (({ configuring with input := [.command 0 [0x00000004]] } : State).host 0).ctl =
      .busy (.config .ch0 20000000 1500000) 8 { v := 0x30, g := true, idx := 0, word := 0x0F9F012C } := by decide

/-- A first line, and the last line of the longest command. -/
theorem witness_EachLineAdvancesOrEnds :
    (((machine 0).issue 0 .init).host 0).ctl = .busy .init 1 {} ∧
    (({ machine 0 with hosts := [(0, { mappedHost with ctl := .busy (.config .ch0 5000 0) 12 {} })] } : State).host 0).ctl
      = .busy (.config .ch0 5000 0) 12 {} := by decide

/-- For InterleavedEnablesLoseUpdate, EnableThenDisableClearsBoth and WholeCommandEqualsItsLines. -/
theorem witness_two_contexts :
    (0 : Nat) ≠ 1 ∧ 0 ∈ (machine 0).params.hosts ∧ 1 ∈ (machine 0).params.hosts ∧ ((machine 0).host 0).ctl = .idle ∧ ((machine 0).host 1).ctl = .idle ∧
    ((machine 0).host 0).handle ≠ none ∧ ((machine 0).host 1).handle ≠ none ∧
    (machine 0).params.unnamedRead = .storage ∧ decode [0x00000014] = .ok (.enable .ch1) := by decide

/-- For ConfigIgnoresConcurrentGateChange, with witness_two_contexts: both values of the saved gate (V-H03, V-H04). -/
theorem witness_ConfigIgnoresConcurrentGateChange :
    (∀ c : Word, 0 ∈ (machine c).params.hosts ∧ 1 ∈ (machine c).params.hosts ∧ ((machine c).host 0).ctl = .idle ∧ ((machine c).host 1).ctl = .idle ∧
      ((machine c).host 0).handle ≠ none ∧ ((machine c).host 1).handle ≠ none) ∧
    gate (machine 0x70).ctrl .ch0 = true ∧ gate (machine 0).ctrl .ch0 = false ∧
    tpe (20000000 : BitVec 64).toNat (1500000 : BitVec 64).toNat = some servo :=
  ⟨fun _ => ⟨.head _, .tail _ (.head _), rfl, rfl, Option.some_ne_none _, Option.some_ne_none _⟩, by decide, by decide, by decide⟩

/-- Context 2 is none of the contexts 0 and 1. -/
theorem witness_OnlyHostsAct :
    ({ machine 0 with input := [.command 2 [0x00000004]] } : State).input = .command 2 [0x00000004] :: [] ∧
    (Event.command 2 [0x00000004]).host ∉ (machine 0).params.hosts := by decide

theorem witness_StepsLeaveOtherContextsAlone :
    ∃ t, step { configuring with input := [.advance 0] } = .next t ∧
      ∀ e rest, ({ configuring with input := [.advance 0] } : State).input = e :: rest → e.host ≠ 1 := by
  refine ⟨_, rfl, ?_⟩
  rintro e rest h
  obtain ⟨rfl, -⟩ := List.cons.inj h
  decide

/-- INIT takes the handle from none to some. -/
theorem witness_OnlyInitWritesHandles :
    ∃ t, step { unmapped 8 [.ok] [.ok 0xB6F00] with input := [.command 0 [0x00000001]] } = .next t ∧
      (t.host 0).handle ≠ ((unmapped 8 [.ok] [.ok 0xB6F00]).host 0).handle :=
  ⟨_, rfl, by decide⟩

/-- A step by a context with a handle that does not end it, and the end of a context. -/
theorem witness_HandleLivesUntilContextEnds :
    (∃ t, step { configuring with input := [.advance 0] } = .next t ∧ (configuring.host 0).handle ≠ none ∧
      ∀ rest, ({ configuring with input := [.advance 0] } : State).input ≠ .exit 0 :: rest) ∧
    ({ configuring with input := [.exit 0] } : State).input = .exit 0 :: [] ∧ 0 ∈ configuring.params.hosts :=
  ⟨⟨_, rfl, by decide, fun rest h => by cases h⟩, rfl, .head _⟩

theorem witness_RefusalMarkIsKept :
    ∃ t, step ((machine 0).withFetchWord 32 0x00000000) = .next t ∧ t.refusals = [.illegalCommand .reservedOpcode] :=
  ⟨_, rfl, by decide⟩

/-- Context 0 is executing CONFIG and stands before step `n`. -/
def configuringAt (n : Nat) : State :=
  { machine 0x30 with
    hosts := [(0, { mappedHost with
      ctl := .busy (.config .ch0 20000000 1500000) n { v := 0x30, g := true, idx := 0, word := 0x0F9F012C } })]
    input := [.advance 0] }

theorem configuringAt_inv (n : Nat) (h1 : 1 ≤ n) (h2 : n ≤ 12) : (configuringAt n).Inv := by
  refine ⟨by simp [hostsSorted, configuringAt], by unfold State.hostsKnown; simp [configuringAt, machine, State.powerOn, Params.hosts],
    fun h => ?_⟩
  by_cases hh : h = 0
  · subst hh
    refine ⟨rfl, h1, h2, fun _ _ => by simp [configuringAt, State.host, hostsGet, mappedHost], fun e => ?_, fun e => ?_,
      fun e => ?_, ?_, ?_⟩
    · exact absurd e (by decide)
    · exact absurd e (by decide)
    · exact absurd e (by decide)
    · rintro ch p d e -
      obtain ⟨-, rfl, rfl⟩ := Instr.config.inj e
      decide
    · rintro ch p d e -
      obtain ⟨-, rfl, rfl⟩ := Instr.config.inj e
      exact ⟨servo, by decide, rfl, rfl⟩
  · have e : (configuringAt n).host h = HostCtx.fresh := by
      simp [State.host, configuringAt, hostsGet, Ne.symm hh]
    rw [e]
    trivial

/-- A state of the invariant in the middle of a CONFIG. -/
theorem witness_StepKeepsTheInvariant : (configuringAt 8).Inv ∧ ∃ t, step (configuringAt 8) = .next t :=
  ⟨configuringAt_inv 8 (by decide) (by decide), _, rfl⟩

/-- The lines 4b and 5, the steps 8 and 9. -/
theorem witness_ConfigLinesWriteTpeResult : ∀ n ∈ [8, 9], (configuringAt n).Inv ∧ ((configuringAt n).host 0).ctl =
    .busy (.config .ch0 20000000 1500000) n { v := 0x30, g := true, idx := 0, word := 0x0F9F012C } := by
  intro n hn
  refine ⟨configuringAt_inv n ?_ ?_, rfl⟩ <;> · simp at hn; omega

theorem witness_BytesOutsideStoredRegistersUnchanged :
    (after (exec (.config .ch0 20000000 1500000) (machine 0x70))).isSome ∧
    ∀ r ∈ storesTo (.config .ch0 20000000 1500000),
      0x01c20e08 < (regAddr r).toNat ∨ (regAddr r).toNat + 4 ≤ 0x01c20e08 := by decide

end Sys2Proof.Tests
end

section
/-! What a line does to the controller of its context (10_state R34): it ends the command or leads to the next line, and
the last line ends it. -/

namespace Sys2Proof.Machine

/-- The last line of a command ends it with OK; RDREG's carries the word read (10_state R36). -/
theorem line_last (cmd : Instr) (h k : Nat) (l : Locals) (s : State) :
    ∃ d, line cmd h (lineCount cmd + k) l s = s.complete h d := by
  cases cmd <;> exact ⟨_, by rw [Nat.add_comm]; rfl⟩

/-- After the last line the context is idle. -/
theorem line_last_idle (cmd : Instr) (h : Nat) {n : Nat} (l : Locals) (s : State) (hn : lineCount cmd ≤ n) :
    ((line cmd h n l s).host h).ctl = .idle := by
  obtain ⟨k, rfl⟩ := Nat.exists_eq_add_of_le hn
  obtain ⟨d, e⟩ := line_last cmd h k l s
  simp [e, State.complete_eq, State.finish_eq]

/-- A line ends the command, or its context stands before the next line of the same command. -/
theorem line_ctl (cmd : Instr) (h n : Nat) (l : Locals) (s : State) :
    NextCtl cmd n ((line cmd h n l s).host h).ctl := by
  obtain ⟨t, c, e, he⟩ := line_effect cmd h n l s
  rw [e, State.setHost_host_same]
  exact he.ctl

/-- A line that is not the last is followed by a line of the command or ends the command. -/
theorem line_advances (cmd : Instr) (h n : Nat) (l : Locals) (s : State) :
    ((line cmd h n l s).host h).ctl = .idle ∨
      (n < lineCount cmd ∧ ∃ l', ((line cmd h n l s).host h).ctl = .busy cmd (n + 1) l') := by
  rcases Nat.lt_or_ge n (lineCount cmd) with hn | hn
  · exact (line_ctl cmd h n l s).imp_right fun hb => ⟨hn, hb⟩
  · exact .inl (line_last_idle cmd h l s hn)

/-- No command has more than 12 lines (70_reset R245). -/
theorem lineCount_le (cmd : Instr) : lineCount cmd ≤ 12 := by cases cmd <;> simp [lineCount]

/-- Settles O44, by what one line does to its context's controller. -/
theorem eachLineAdvancesOrEnds : Obligations.EachLineAdvancesOrEnds := by
  refine ⟨fun s h n cmd l hb _ => ?_, lineCount_le⟩
  rw [State.advance_busy s h hb]
  exact line_advances cmd h n l s

end Sys2Proof.Machine
end

section
/-! A whole command is its lines executed one by one, and a line does not look at the input. -/

namespace Sys2Proof.Machine

/-- Context `h` is idle or has `cmd` under way. -/
def State.Executes (s : State) (h : Nat) (cmd : Instr) : Prop :=
  (s.host h).ctl = .idle ∨ ∃ n l, (s.host h).ctl = .busy cmd n l

theorem State.issue_executes (s : State) (h : Nat) (cmd : Instr) : (s.issue h cmd).Executes h cmd :=
  .inr ⟨1, {}, by simp [State.issue_eq]⟩

theorem State.Executes.advance {s : State} {h : Nat} {cmd : Instr} (hs : s.Executes h cmd) :
    (s.advance h).Executes h cmd := by
  obtain hi | ⟨n, l, hb⟩ := hs
  · rw [State.advance_idle s h hi]
    exact .inl hi
  · rw [State.advance_busy s h hb]
    exact (line_ctl cmd h n l s).imp_right fun ⟨l', hl⟩ => ⟨n + 1, l', hl⟩

/-- Running `k` lines of the command under way is executing `k` times the next line. -/
theorem runLines_eq_iterate {s : State} {h : Nat} {cmd : Instr} (k : Nat) (hs : s.Executes h cmd) :
    runLines (line cmd) h k s = (State.advance · h)^[k] s := by
  induction k generalizing s with
  | zero => rfl
  | succ k ih =>
    rw [Function.iterate_succ_apply, ← ih hs.advance]
    obtain hi | ⟨n, l, hb⟩ := hs
    · rw [State.advance_idle s h hi, runLines_idle _ _ _ _ hi, runLines_idle _ _ _ _ hi]
    · rw [State.advance_busy s h hb, runLines_busy _ _ _ _ hb]

/-- A whole command is its issue and then its lines, executed one by one. -/
theorem exec_eq_iterate (i : Instr) (s : State) (hi : (s.host s.cur).ctl = .idle) :
    exec i s = .next ((State.advance · s.cur)^[lineCount i] (s.issue s.cur i)) := by
  rw [exec_eq_runCommand, runCommand_idle _ _ _ _ hi, ← runLines_eq_iterate _ (s.issue_executes _ i)]
  rfl

/-- A command that answers a next state was issued by an idle context. -/
theorem ready_of_exec {i : Instr} {s t : State} (h : exec i s = .next t) : (s.host s.cur).ctl = .idle := by
  by_contra hb
  rw [exec_eq_runCommand, runCommand_busy _ _ _ _ hb] at h
  cases h

/-! ## Taking an event and executing a line may be exchanged -/

theorem State.take_setHost (s : State) (h k : Nat) (rest : List Event) (c : HostCtx) :
    (s.take h rest).setHost k c = (s.setHost k c).take h rest := rfl
theorem State.take_toLine (s : State) (h k : Nat) (rest : List Event) (cmd : Instr) (n : Nat) (l : Locals) :
    (s.take h rest).toLine k cmd n l = (s.toLine k cmd n l).take h rest := rfl
theorem State.take_issue (s : State) (h k : Nat) (rest : List Event) (cmd : Instr) :
    (s.take h rest).issue k cmd = (s.issue k cmd).take h rest := rfl
theorem State.take_finish (s : State) (h k : Nat) (rest : List Event) (r : Response) :
    (s.take h rest).finish k r = (s.finish k r).take h rest := rfl
theorem State.take_refuse (s : State) (h k : Nat) (rest : List Event) (r : RefuseReason) :
    (s.take h rest).refuse k r = (s.refuse k r).take h rest := rfl
theorem State.take_regValue (s : State) (h : Nat) (rest : List Event) (r : Reg) :
    (s.take h rest).regValue r = s.regValue r := by
  rcases r with _ | ⟨_ | _⟩ <;> rfl
theorem State.take_afterRead (s : State) (h : Nat) (rest : List Event) (r : Reg) :
    (s.take h rest).afterRead r = (s.afterRead r).take h rest := by
  rcases r with _ | ch
  · cases e : s.params.unnamedRead <;> simp [State.afterRead, e, State.take]
  · rfl
theorem State.take_regRead (s : State) (h : Nat) (rest : List Event) (r : Reg) :
    (s.take h rest).regRead r = ((s.regRead r).1, (s.regRead r).2.take h rest) := by
  simp [State.regRead, State.take_regValue, State.take_afterRead]
theorem State.take_regWrite (s : State) (h : Nat) (rest : List Event) (r : Reg) (v : Word) :
    (s.take h rest).regWrite r v = (s.regWrite r v).take h rest := by
  rcases r with _ | ⟨_ | _⟩ <;> rfl
theorem State.take_accessorOpen (s : State) (h : Nat) (rest : List Event) :
    (s.take h rest).accessorOpen = (s.accessorOpen.1, s.accessorOpen.2.take h rest) := by
  cases e : s.openAnswers <;> simp [State.accessorOpen, e] <;> rfl
theorem State.take_accessorMap (s : State) (h : Nat) (rest : List Event) :
    (s.take h rest).accessorMap = (s.accessorMap.1, s.accessorMap.2.take h rest) := by
  cases e : s.mapAnswers <;> simp [State.accessorMap, e] <;> rfl
theorem State.take_requireHandle (s t : State) (h k : Nat) (rest : List Event) :
    (s.take h rest).requireHandle k (t.take h rest) = (s.requireHandle k t).take h rest := by
  simp only [State.requireHandle, State.take_host]
  split <;> rfl

/-- A line neither reads the input nor whose turn it is. -/
theorem line_take (cmd : Instr) (k n : Nat) (l : Locals) (s : State) (h : Nat) (rest : List Event) :
    line cmd k n l (s.take h rest) = (line cmd k n l s).take h rest := by
  cases cmd with
  | init =>
    simp only [line, lineInit, State.take_accessorOpen, State.take_accessorMap, State.take_toLine]
    split
    · split <;> rfl
    · rfl
    · rfl
    · split <;> rfl
    · rfl
    · rfl
    · rfl
  | setpol ch pol =>
    simp only [line, lineSetpol, State.take_regRead, State.take_regWrite, State.take_toLine, State.take_requireHandle]
    split <;> rfl
  | config ch p d =>
    simp only [line, lineConfig, State.take_regRead, State.take_regWrite, State.take_toLine, State.take_requireHandle]
    split
    · rfl
    · split <;> rfl
    · split <;> rfl
    · rfl
    · rfl
    · rfl
    · rfl
    · rfl
    · rfl
    · split <;> rfl
    · split <;> rfl
    · rfl
  | enable ch =>
    simp only [line, lineEnable, State.take_regRead, State.take_regWrite, State.take_toLine, State.take_requireHandle]
    split <;> rfl
  | disable ch =>
    simp only [line, lineDisable, State.take_regRead, State.take_regWrite, State.take_toLine, State.take_requireHandle]
    split <;> rfl
  | rdreg off =>
    simp only [line, lineRdreg, State.memRead, State.take_toLine, State.take_requireHandle]
    split
    · rfl
    · cases accessReg (offsetAddr off) 4 with
      | none => rfl
      | some r => simp [State.take_regRead, State.take_toLine]
    · rfl
  | wrreg off data =>
    simp only [line, lineWrreg, State.memWrite, State.take_toLine, State.take_requireHandle]
    split
    · rfl
    · cases accessReg (offsetAddr off) 4 with
      | none => rfl
      | some r => simp [State.take_regWrite, State.take_toLine]
    · rfl

theorem State.take_advance (s : State) (h k : Nat) (rest : List Event) :
    (s.take h rest).advance k = (s.advance k).take h rest := by
  simp only [State.advance, State.take_host]
  split
  · rfl
  · exact line_take _ k _ _ s h rest

theorem State.take_iterate_advance (s : State) (h k n : Nat) (rest : List Event) :
    (State.advance · k)^[n] (s.take h rest) = ((State.advance · k)^[n] s).take h rest := by
  induction n generalizing s with
  | zero => rfl
  | succ n ih => rw [Function.iterate_succ_apply, Function.iterate_succ_apply, State.take_advance, ih]

theorem State.advance_params (s : State) (h : Nat) : (s.advance h).params = s.params := by
  unfold State.advance
  split
  · rfl
  · exact line_params _ _ _ _ s

/-! ## Steps that execute the lines of one context -/

/-- A run whose first step answers `t` goes on from `t`. -/
theorem run_succ_of_step {s t : State} (k : Nat) (h : step s = .next t) :
    Sys2Proof.core.run (k + 1) s = Sys2Proof.core.run k t := by
  have hcore : Sys2Proof.core.step s = .next t := h
  simp only [Host.Core.run, hcore]

/-- `k` lines of a context of HOSTS, each in a step of its own. -/
theorem run_advance_known (s : State) (h k : Nat) (rest : List Event) (hh : h ∈ s.params.hosts) :
    Sys2Proof.core.run k (s.take h (List.replicate k (.advance h) ++ rest)) =
      .next (((State.advance · h)^[k] s).take h rest) := by
  induction k generalizing s with
  | zero => rfl
  | succ k ih =>
    have hstep : step (s.take h (List.replicate (k + 1) (.advance h) ++ rest)) =
        .next ((s.advance h).take h (List.replicate k (.advance h) ++ rest)) := by
      rw [← State.take_advance]
      exact step_knownHost (s.take _ _) (.advance h) (List.replicate k (.advance h) ++ rest) rfl hh
    exact (run_succ_of_step k hstep).trans (ih (s.advance h) (by rwa [State.advance_params]))

/-- Events of a number outside HOSTS are dropped one by one. -/
theorem run_unknown (s : State) (es rest : List Event) (hh : ∀ e ∈ es, e.host ∉ s.params.hosts) :
    Sys2Proof.core.run es.length (s.dropEvent (es ++ rest)) = .next (s.dropEvent rest) := by
  induction es with
  | nil => rfl
  | cons e es ih =>
    obtain ⟨he, hes⟩ := List.forall_mem_cons.mp hh
    have hstep : step (s.dropEvent (e :: es ++ rest)) = .next (s.dropEvent (es ++ rest)) :=
      step_unknownHost _ e (es ++ rest) rfl he
    exact (run_succ_of_step es.length hstep).trans (ih hes)

/-- A command of a context of HOSTS: its issue and its lines in steps of their own, against the one step. -/
theorem run_issue_eq_step_command (s : State) (h : Nat) (ws : List Word) (rest : List Event) (i : Instr)
    (hidle : (s.host h).ctl = .idle) (hdec : decode ws = .ok i) (hh : h ∈ s.params.hosts) :
    Sys2Proof.core.run (lineCount i + 1)
        (s.dropEvent (.issue h ws :: (List.replicate (lineCount i) (.advance h) ++ rest))) =
      step (s.dropEvent (.command h ws :: rest)) := by
  have hissue : step (s.dropEvent (.issue h ws :: (List.replicate (lineCount i) (.advance h) ++ rest))) =
      .next ((s.issue h i).take h (List.replicate (lineCount i) (.advance h) ++ rest)) := by
    rw [step_knownHost (s.dropEvent _) (.issue h ws) _ rfl hh]
    simp only [State.runEvent, State.dropEvent_host, hidle, hdec]
    rfl
  have hcommand : step (s.dropEvent (.command h ws :: rest)) =
      .next (((State.advance · h)^[lineCount i] (s.issue h i)).take h rest) := by
    rw [step_knownHost (s.dropEvent _) (.command h ws) rest rfl hh, ← State.take_iterate_advance, ← State.take_issue]
    simp only [State.runEvent, State.dropEvent_host, hidle, hdec]
    exact exec_eq_iterate i (s.take h rest) hidle
  exact (run_succ_of_step _ hissue).trans ((run_advance_known (s.issue h i) h _ rest hh).trans hcommand.symm)

/-- Settles O45: a context of HOSTS executes the same lines either way; the events of any other number are dropped. -/
theorem wholeCommandEqualsItsLines : Obligations.WholeCommandEqualsItsLines := by
  intro s h ws rest i hidle hdec
  by_cases hh : h ∈ s.params.hosts
  · exact run_issue_eq_step_command s h ws rest i hidle hdec hh
  · have hdrop := run_unknown s (.issue h ws :: List.replicate (lineCount i) (.advance h)) rest (by simp [Event.host, hh])
    rw [List.length_cons, List.length_replicate] at hdrop
    exact hdrop.trans (step_unknownHost (s.dropEvent (.command h ws :: rest)) (.command h ws) rest rfl hh).symm

end Sys2Proof.Machine
end

section
/-! A delivered command that decodes is well formed (30_encoding R86). -/

namespace Sys2Proof

/-- The last check of 30_encoding R86: the word of a raw access that passes names a register. -/
theorem validOffset_of_checkWord {cw : Word} (h : checkWord cw = none) (hop : opField cw = 0x6 ∨ opField cw = 0x7) :
    validOffset (offField cw) = true := by
  unfold checkWord at h
  dsimp only at h
  split_ifs at h with _ _ _ _ _ hoff
  rw [← Bool.not_eq_false]
  exact fun hv => hoff ⟨hop, hv⟩

/-- The command built from a checked word is well formed: by opcode 0 to 7 and above, and by the number of operand
words. -/
theorem buildInstr_wf {cw : Word} {ops : List Word} {i : Instr} (hc : checkWord cw = none)
    (h : buildInstr cw ops = .ok i) : i.wf = true := by
  delta buildInstr at h
  dsimp only at h
  generalize hop : (opField cw).toNat = n at h
  obtain _ | _ | _ | _ | _ | _ | _ | _ | n := n
  · cases h
  · cases ops <;> cases h
    rfl
  · cases ops <;> cases h
    rfl
  · obtain _ | ⟨_, _ | ⟨_, _ | ⟨_, _ | ⟨_, _ | _⟩⟩⟩⟩ := ops <;> cases h
    rfl
  · cases ops <;> cases h
    rfl
  · cases ops <;> cases h
    rfl
  · cases ops <;> cases h
    exact validOffset_of_checkWord hc (.inl (BitVec.eq_of_toNat_eq hop))
  · obtain _ | ⟨_, _ | _⟩ := ops <;> cases h
    exact validOffset_of_checkWord hc (.inr (BitVec.eq_of_toNat_eq hop))
  · cases h

theorem decode_wf {ws : List Word} {i : Instr} (h : decode ws = .ok i) : i.wf = true := by
  unfold decode at h
  split at h
  · cases h
  · split at h
    · cases h
    · next hc => exact buildInstr_wf hc h

end Sys2Proof
end

section
/-! The invariant of the machine (10_state R34): each line keeps its context's part of it, and so does every step. -/

namespace Sys2Proof.Machine

/-- What the invariant says of one context. -/
def State.CtxOk (s : State) (h : Nat) : Prop := (s.host h).ctl.ok (s.host h).handle s.params

theorem State.ctxOk_of_idle {s : State} {h : Nat} (hi : (s.host h).ctl = .idle) : s.CtxOk h := by
  simp [State.CtxOk, hi, Ctl.ok]
@[simp] theorem State.ctxOk_finish (s : State) (h : Nat) (r : Response) : (s.finish h r).CtxOk h :=
  State.ctxOk_of_idle (by simp [State.finish_eq])
@[simp] theorem State.ctxOk_complete (s : State) (h : Nat) (d : Option Word) : (s.complete h d).CtxOk h :=
  s.ctxOk_finish h _
@[simp] theorem State.ctxOk_raise (s : State) (h : Nat) (e : Status) : (s.raise h e).CtxOk h := s.ctxOk_finish h _
@[simp] theorem State.ctxOk_refuse (s : State) (h : Nat) (r : RefuseReason) : (s.refuse h r).CtxOk h :=
  State.ctxOk_of_idle (by simp [State.refuse_eq])
@[simp] theorem State.ctxOk_toLine (s : State) (h : Nat) (cmd : Instr) (n : Nat) (l : Locals) :
    (s.toLine h cmd n l).CtxOk h ↔ (Ctl.busy cmd n l).ok (s.host h).handle s.params := by
  simp [State.CtxOk, State.toLine_eq]

/-- Line 0 needs the invariant of the next line only where a handle is held. -/
theorem State.ctxOk_requireHandle {s next : State} {h : Nat} (hn : (s.host h).handle ≠ none → next.CtxOk h) :
    (s.requireHandle h next).CtxOk h := by
  by_cases hh : (s.host h).handle = none
  · rw [State.requireHandle_none s h next hh]
    exact s.ctxOk_raise h _
  · rw [State.requireHandle_some s h next hh]
    exact hn hh

/-! ## What `Ctl.ok` asks of each kind of command -/

section
variable {n : Nat} {l : Locals} {hd : Option Addr} {q : Params}

theorem Ctl.ok_init_iff : (Ctl.busy .init n l).ok hd q ↔
    1 ≤ n ∧ n ≤ 7 ∧ (6 ≤ n → hd ≠ none) ∧ (3 ≤ n → l.pageSize = q.pageSize) ∧
      (4 ≤ n → l.start = mapStart q.pageSize ∧ l.offset = mapOffset q.pageSize) := by
  simp [Ctl.ok, Instr.wf, lineCount]

theorem Ctl.ok_config_iff {ch : Channel} {p d : BitVec 64} : (Ctl.busy (.config ch p d) n l).ok hd q ↔
    1 ≤ n ∧ n ≤ 12 ∧ (2 ≤ n → hd ≠ none) ∧ (3 ≤ n → p ≠ 0) ∧
      (4 ≤ n → ∃ r, tpe p.toNat d.toNat = some r ∧ l.idx = r.idx ∧ l.word = r.word) := by
  simp [Ctl.ok, Instr.wf, lineCount]

/-- A command whose locals the invariant says nothing of. -/
def LocalsFree (cmd : Instr) : Prop := cmd ≠ .init ∧ ∀ ch p d, cmd ≠ .config ch p d

theorem Ctl.ok_localsFree_iff {cmd : Instr} (hc : LocalsFree cmd) : (Ctl.busy cmd n l).ok hd q ↔
    cmd.wf = true ∧ 1 ≤ n ∧ n ≤ lineCount cmd ∧ (2 ≤ n → hd ≠ none) := by
  simp [Ctl.ok, hc.1, hc.2]

/-- A command as it is issued meets the invariant. -/
theorem Ctl.ok_first {cmd : Instr} (hwf : cmd.wf = true) : (Ctl.busy cmd 1 l).ok hd q := by
  obtain ⟨k, hk⟩ := lineCount_eq_add cmd
  simp [Ctl.ok, hwf, hk]

/-! ## Each line keeps its context's part of the invariant -/

variable {h : Nat} {s : State}

theorem lineInit_ctxOk (hok : (Ctl.busy .init n l).ok (s.host h).handle s.params) : (lineInit h n l s).CtxOk h := by
  rw [Ctl.ok_init_iff] at hok
  obtain ⟨-, -, hhd, hpage, hmap⟩ := hok
  unfold lineInit
  split
  · dsimp only
    split
    · simp
    · simp [Ctl.ok_init_iff]
  · simp [Ctl.ok_init_iff]
  · simp [Ctl.ok_init_iff, hpage]
  · dsimp only
    split
    · simp
    · simp [Ctl.ok_init_iff, hpage, hmap]
  · simp [Ctl.ok_init_iff, State.setHandle_eq, hpage, hmap]
  · simp [Ctl.ok_init_iff, hhd, hpage, hmap]
  · simp

/-- From line 3a of CONFIG on the locals keep the TPE's index and word, whatever is read or written. -/
theorem ctxOk_config_toLine {ch : Channel} {p d : BitVec 64} {t : State} {l' : Locals} (hn : 4 ≤ n) (hlast : n < 12)
    (hok : (Ctl.busy (.config ch p d) n l).ok (s.host h).handle s.params) (ht : (t.host h).handle = (s.host h).handle)
    (hidx : l'.idx = l.idx) (hword : l'.word = l.word) : (t.toLine h (.config ch p d) (n + 1) l').CtxOk h := by
  rw [Ctl.ok_config_iff] at hok
  obtain ⟨-, -, hhd, hp, hr⟩ := hok
  rw [State.ctxOk_toLine, Ctl.ok_config_iff, ht, hidx, hword]
  exact ⟨by omega, by omega, fun _ => hhd (by omega), fun _ => hp (by omega), fun _ => hr hn⟩

theorem lineConfig_ctxOk {ch : Channel} {p d : BitVec 64}
    (hok : (Ctl.busy (.config ch p d) n l).ok (s.host h).handle s.params) : (lineConfig ch p d h n l s).CtxOk h := by
  have keep {t : State} {l' : Locals} (hn : 4 ≤ n) (hlast : n < 12) (ht : (t.host h).handle = (s.host h).handle)
      (hidx : l'.idx = l.idx) (hword : l'.word = l.word) : (t.toLine h (.config ch p d) (n + 1) l').CtxOk h :=
    ctxOk_config_toLine hn hlast hok ht hidx hword
  have hok' := hok
  rw [Ctl.ok_config_iff] at hok'
  obtain ⟨-, -, hhd, hp, -⟩ := hok'
  unfold lineConfig
  split
  · exact State.ctxOk_requireHandle fun hd => by simp [Ctl.ok_config_iff, hd]
  · split
    · simp
    · next hp0 => simpa [Ctl.ok_config_iff, hhd] using hp0
  · split
    · simp
    · next r hr => simpa [Ctl.ok_config_iff, hhd, hr] using hp
  · exact keep (by decide) (by decide) (by simp [State.regRead]) rfl rfl
  · exact keep (by decide) (by decide) (by simp [State.regRead]) rfl rfl
  · exact keep (by decide) (by decide) (by simp) rfl rfl
  · exact keep (by decide) (by decide) (by simp [State.regRead]) rfl rfl
  · exact keep (by decide) (by decide) (by simp) rfl rfl
  · exact keep (by decide) (by decide) (by simp) rfl rfl
  · split
    · exact keep (by decide) (by decide) (by simp [State.regRead]) rfl rfl
    · exact keep (by decide) (by decide) rfl rfl rfl
  · split
    · exact keep (by decide) (by decide) (by simp) rfl rfl
    · exact keep (by decide) (by decide) rfl rfl rfl
  · simp

/-- Only INIT writes a handle. -/
theorem line_handle (cmd : Instr) (h n : Nat) (l : Locals) (s : State) (hc : cmd ≠ .init) :
    ((line cmd h n l s).host h).handle = (s.host h).handle := by
  obtain ⟨t, c, e, he⟩ := line_effect cmd h n l s
  rw [e, State.setHost_host_same]
  exact he.handle.resolve_right fun ⟨hinit, _⟩ => hc hinit

/-- Past line 0 a context holds a handle (60_exceptions R206). -/
theorem handle_of_line_busy {cmd : Instr} (hc : cmd ≠ .init) (hn : 1 ≤ n) (hhd : 2 ≤ n → (s.host h).handle ≠ none)
    (hb : ((line cmd h n l s).host h).ctl ≠ .idle) : (s.host h).handle ≠ none := by
  rcases hn.eq_or_lt with rfl | hn
  · intro hh
    rw [line_first_noHandle cmd hc h l s hh] at hb
    exact hb (by simp [State.raise_eq, State.finish_eq])
  · exact hhd hn

theorem line_ctxOk_localsFree {cmd : Instr} (hc : LocalsFree cmd)
    (hok : (Ctl.busy cmd n l).ok (s.host h).handle s.params) : (line cmd h n l s).CtxOk h := by
  rw [Ctl.ok_localsFree_iff hc] at hok
  obtain ⟨hwf, hn, -, hhd⟩ := hok
  rcases line_advances cmd h n l s with hi | ⟨hlt, l', hb⟩
  · exact State.ctxOk_of_idle hi
  · rw [State.CtxOk, hb, Ctl.ok_localsFree_iff hc, line_handle cmd h n l s hc.1]
    exact ⟨hwf, by omega, hlt, fun _ => handle_of_line_busy (l := l) hc.1 hn hhd (by simp [hb])⟩

theorem line_ctxOk (cmd : Instr) (hok : (Ctl.busy cmd n l).ok (s.host h).handle s.params) :
    (line cmd h n l s).CtxOk h := by
  cases cmd with
  | init => exact lineInit_ctxOk hok
  | config ch p d => exact lineConfig_ctxOk hok
  | setpol _ _ => exact line_ctxOk_localsFree (by simp [LocalsFree]) hok
  | enable _ => exact line_ctxOk_localsFree (by simp [LocalsFree]) hok
  | disable _ => exact line_ctxOk_localsFree (by simp [LocalsFree]) hok
  | rdreg _ => exact line_ctxOk_localsFree (by simp [LocalsFree]) hok
  | wrreg _ _ => exact line_ctxOk_localsFree (by simp [LocalsFree]) hok

/-! ## Each operation of a step keeps the invariant -/

theorem State.hosts_setHost_known {t : State} {c : HostCtx} (hk : ∀ x ∈ s.hosts, x.1 ∈ s.params.hosts)
    (hh : h ∈ s.params.hosts) (ehosts : t.hosts = s.hosts) :
    ∀ x ∈ (t.setHost h c).hosts, x.1 ∈ s.params.hosts := by
  intro x hx
  rw [State.setHost_hosts, ehosts] at hx
  rcases mem_hostsSet_fst _ _ _ _ (List.mem_map_of_mem hx) with e | hm
  · rwa [e]
  · obtain ⟨y, hy, e⟩ := List.mem_map.mp hm
    exact e ▸ hk y hy

theorem State.Inv.cur_mem (hs : s.Inv) : s.cur ∈ s.params.hosts := by
  obtain ⟨-, ⟨hcur, -⟩, -⟩ := hs
  exact hcur

theorem State.Inv.ctxOk (hs : s.Inv) (h : Nat) : s.CtxOk h := by
  obtain ⟨-, -, hok⟩ := hs
  exact hok h

/-- Replacing the record of a context of HOSTS keeps the invariant when the new record meets its part of it. -/
theorem State.Inv.setHost {t : State} {c : HostCtx} (hs : s.Inv) (hh : h ∈ s.params.hosts) (ehosts : t.hosts = s.hosts)
    (eparams : t.params = s.params) (ecur : t.cur = s.cur) (hc : (t.setHost h c).CtxOk h) : (t.setHost h c).Inv := by
  obtain ⟨hsorted, ⟨hcur, hknown⟩, hok⟩ := hs
  refine ⟨?_, ⟨?_, ?_⟩, fun k => ?_⟩
  · rw [State.setHost_hosts, ehosts]
    exact hostsSet_sorted _ _ _ hsorted
  · rwa [State.setHost_cur, State.setHost_params, ecur, eparams]
  · rw [State.setHost_params, eparams]
    exact State.hosts_setHost_known hknown hh ehosts
  · by_cases hk : k = h
    · exact hk ▸ hc
    · rw [State.setHost_host_other _ _ hk, State.setHost_params, eparams, State.host, ehosts]
      exact hok k

theorem State.Inv.take (hs : s.Inv) (hh : h ∈ s.params.hosts) (rest : List Event) : (s.take h rest).Inv := by
  obtain ⟨hsorted, ⟨-, hknown⟩, hok⟩ := hs
  exact ⟨hsorted, ⟨hh, hknown⟩, hok⟩

theorem State.Inv.issue (hs : s.Inv) (hh : h ∈ s.params.hosts) {i : Instr} (hi : i.wf = true) : (s.issue h i).Inv :=
  hs.setHost hh rfl rfl rfl ((State.ctxOk_toLine s h i 1 {}).mpr (Ctl.ok_first hi))

theorem State.Inv.exitHost (hs : s.Inv) (hh : h ∈ s.params.hosts) : (s.exitHost h).Inv :=
  hs.setHost hh rfl rfl rfl (State.ctxOk_of_idle (by simp [HostCtx.fresh]))

theorem State.Inv.advance (hs : s.Inv) (hh : h ∈ s.params.hosts) : (s.advance h).Inv := by
  unfold State.advance
  split
  · exact hs
  · next cmd n l hb =>
    have hok : (line cmd h n l s).CtxOk h := line_ctxOk cmd (by simpa only [State.CtxOk, hb] using hs.ctxOk h)
    obtain ⟨t, c, e, he⟩ := line_effect cmd h n l s
    rw [e] at hok ⊢
    exact hs.setHost hh he.hosts he.params he.cur hok

theorem State.Inv.iterate_advance (hs : s.Inv) (hh : h ∈ s.params.hosts) (k : Nat) :
    ((State.advance · h)^[k] s).Inv := by
  induction k generalizing s with
  | zero => exact hs
  | succ k ih => exact ih (hs.advance hh) (by rwa [State.advance_params])

theorem State.Inv.exec {t : State} {i : Instr} (hs : s.Inv) (hi : i.wf = true) (ht : exec i s = .next t) : t.Inv := by
  rw [exec_eq_iterate i s (ready_of_exec ht)] at ht
  cases ht
  exact (hs.issue hs.cur_mem hi).iterate_advance hs.cur_mem _

theorem State.Inv.runEvent {t : State} {e : Event} {rest : List Event} (hs : s.Inv) (hh : e.host ∈ s.params.hosts)
    (ht : s.runEvent e rest = .next t) : t.Inv := by
  have htake : (s.take e.host rest).Inv := hs.take hh rest
  have hwait : (s.waitBusy e.host).Inv := (hs.take hh s.input).advance hh
  cases e with
  | command h ws =>
    simp only [State.runEvent] at ht
    split at ht
    · cases ht
      exact hwait
    · split at ht
      · cases ht
        exact htake
      · next i hi => exact htake.exec (decode_wf hi) ht
  | issue h ws =>
    simp only [State.runEvent] at ht
    split at ht
    · cases ht
      exact hwait
    · split at ht
      · cases ht
        exact htake
      · next i hi =>
        cases ht
        exact htake.issue hh (decode_wf hi)
  | advance h =>
    cases ht
    exact htake.advance hh
  | exit h =>
    cases ht
    exact htake.exitHost hh

end

/-- Settles O55: the cases of a step, each an operation that keeps the invariant. -/
theorem stepKeepsTheInvariant : Obligations.StepKeepsTheInvariant := by
  intro s t hs ht
  rcases step_cases s with ⟨-, e⟩ | ⟨e, rest, -, ⟨hh, hrun⟩ | ⟨-, hdrop⟩⟩
  · rw [e] at ht
    cases ht
    exact hs
  · exact hs.runEvent hh (hrun ▸ ht)
  · rw [hdrop] at ht
    cases ht
    exact hs

end Sys2Proof.Machine
end

section
/-! Reading CTRL (10_state R24): the named bits read as stored, whichever way the unnamed bits read. -/

namespace Sys2Proof.Machine

/-- Merging two words by a mask keeps the first word's bits inside it. -/
theorem merge_and_mask (v w m : Word) : ((v &&& m) ||| (w &&& ~~~ m)) &&& m = v &&& m := by
  ext k
  cases hm : m[k] <;> simp [hm]

/-- Merging two words by a mask keeps the second word's bits outside it. -/
theorem merge_and_not_mask (v w m : Word) : ((v &&& m) ||| (w &&& ~~~ m)) &&& ~~~ m = w &&& ~~~ m := by
  ext k
  cases hm : m[k] <;> simp [hm]

theorem State.regValue_ctrl_storage {s : State} (hs : s.params.unnamedRead = .storage) : s.regValue .ctrl = s.ctrl := by
  simp [State.regValue, hs]

theorem State.regValue_ctrl_draw {s : State} (hs : s.params.unnamedRead = .draw) :
    s.regValue .ctrl = (s.ctrl &&& namedMask) ||| (Config.unnamedDraw s.draws &&& ~~~ namedMask) := by
  simp [State.regValue, hs]

/-- The named bits read as stored. -/
theorem State.regValue_ctrl_and_namedMask (s : State) : s.regValue .ctrl &&& namedMask = s.ctrl &&& namedMask := by
  cases hs : s.params.unnamedRead with
  | storage => rw [State.regValue_ctrl_storage hs]
  | draw => rw [State.regValue_ctrl_draw hs, merge_and_mask]

/-- Settles O34: CTRL reads as a merge of the stored word and the draw by the mask of the named bits. -/
theorem unnamedBitsReadAsParameterSays : Obligations.UnnamedBitsReadAsParameterSays := by
  refine fun s => ⟨fun hs => ⟨State.regValue_ctrl_storage hs, State.afterRead_storage s .ctrl hs⟩, fun hs => ?_⟩
  refine ⟨s.regValue_ctrl_and_namedMask, ?_, by simp [State.afterRead, hs], fun u v huv => ?_⟩
  · rw [State.regValue_ctrl_draw hs, merge_and_not_mask]
  · rw [State.regValue_ctrl_draw (by simpa using hs), State.regValue_ctrl_draw (by simpa using hs)]
    simp [huv]

end Sys2Proof.Machine
end

section
/-! What a command run as a whole does (43_configure R150, 44_enable R170, R171, 41_polarity R110, 45_register_access R180,
R181): the state it ends in, for an idle context. -/

namespace Sys2Proof.Machine

/-- CTRL read, modified by `f` and written back. -/
def State.modifyCtrl (s : State) (f : Word → Word) : State :=
  (s.afterRead .ctrl).regWrite .ctrl (f (s.regValue .ctrl))

@[simp] theorem State.modifyCtrl_ctrl (s : State) (f : Word → Word) : (s.modifyCtrl f).ctrl = f (s.regValue .ctrl) := rfl
@[simp] theorem State.modifyCtrl_period0 (s : State) (f : Word → Word) : (s.modifyCtrl f).period0 = s.period0 := by
  simp [State.modifyCtrl]
@[simp] theorem State.modifyCtrl_period1 (s : State) (f : Word → Word) : (s.modifyCtrl f).period1 = s.period1 := by
  simp [State.modifyCtrl]
@[simp] theorem State.modifyCtrl_params (s : State) (f : Word → Word) : (s.modifyCtrl f).params = s.params := by
  simp [State.modifyCtrl]
@[simp] theorem State.modifyCtrl_host (s : State) (f : Word → Word) (h : Nat) : (s.modifyCtrl f).host h = s.host h := by
  simp [State.modifyCtrl]

/-- CONFIG's register accesses for the TPE's result `r`: lines 2 to 4b, line 5, and lines 6a and 6b when the gate was
on (43_configure R158). -/
def State.configured (s : State) (ch : Channel) (r : TpeResult) : State :=
  let cleared := (s.afterRead .ctrl).modifyCtrl (· &&& ~~~ (prescMask ch ||| gateBit ch))
  let stored := (cleared.modifyCtrl (· ||| prescAt ch r.idx)).regWrite (.period ch) r.word
  if gate (s.regValue .ctrl) ch then stored.modifyCtrl (· ||| gateBit ch) else stored

section
variable {s : State} (hidle : (s.host s.cur).ctl = .idle)
include hidle

theorem exec_noHandle {i : Instr} (hi : i ≠ .init) (hh : (s.host s.cur).handle = none) :
    exec i s = .next (s.raise s.cur .notInitialized) := by
  obtain ⟨k, hk⟩ := lineCount_eq_add i
  rw [exec_eq_runCommand, runCommand_idle _ _ _ _ hidle, hk, runLines_toLine,
    line_first_noHandle i hi _ _ _ (by simpa using hh), runLines_raise]
  simp [State.raise_eq]

variable (hh : (s.host s.cur).handle ≠ none)
include hh

theorem exec_setpol (ch : Channel) (pol : Polarity) : exec (.setpol ch pol) s =
    .next ((s.modifyCtrl (withBit · (actBit ch) (Polarity.act pol))).complete s.cur none) := by
  rw [exec_handle _ (by simp) s hidle hh]
  simp [lineCount, line, lineSetpol, State.regRead, State.modifyCtrl, State.complete_eq]

theorem exec_enable (ch : Channel) : exec (.enable ch) s =
    .next ((s.modifyCtrl (· ||| enBit ch ||| gateBit ch)).complete s.cur none) := by
  rw [exec_handle _ (by simp) s hidle hh]
  simp [lineCount, line, lineEnable, State.regRead, State.modifyCtrl, State.complete_eq]

theorem exec_disable (ch : Channel) : exec (.disable ch) s =
    .next ((s.modifyCtrl (· &&& ~~~ (enBit ch ||| gateBit ch))).complete s.cur none) := by
  rw [exec_handle _ (by simp) s hidle hh]
  simp [lineCount, line, lineDisable, State.regRead, State.modifyCtrl, State.complete_eq]

theorem exec_config_zero (ch : Channel) (d : BitVec 64) :
    exec (.config ch 0 d) s = .next (s.refuse s.cur .periodZero) := by
  rw [exec_handle _ (by simp) s hidle hh]
  simp [lineCount, line, lineConfig]

theorem exec_config_unrepresentable (ch : Channel) {p d : BitVec 64} (hp : p ≠ 0)
    (hr : tpe p.toNat d.toNat = none) :
    exec (.config ch p d) s = .next (s.raise s.cur .periodUnrepresentable) := by
  rw [exec_handle _ (by simp) s hidle hh]
  simp [lineCount, line, lineConfig, hr, show ¬ p = 0#64 from hp, State.raise_eq]

theorem exec_config (ch : Channel) {p d : BitVec 64} {r : TpeResult} (hp : p ≠ 0)
    (hr : tpe p.toNat d.toNat = some r) :
    exec (.config ch p d) s = .next ((s.configured ch r).complete s.cur none) := by
  rw [exec_handle _ (by simp) s hidle hh]
  cases hg : gate (s.regValue .ctrl) ch <;>
    simp [lineCount, line, lineConfig, hr, hg, show ¬ p = 0#64 from hp, State.regRead, State.modifyCtrl,
      State.configured, State.complete_eq]

theorem exec_rdreg {off : BitVec 8} {r : Reg} (hr : accessReg (offsetAddr off) 4 = some r) :
    exec (.rdreg off) s = .next ((s.afterRead r).complete s.cur (some (s.regValue r))) := by
  rw [exec_handle _ (by simp) s hidle hh]
  simp [lineCount, line, lineRdreg, State.memRead, hr, State.regRead, State.complete_eq]

theorem exec_rdreg_badOffset {off : BitVec 8} (hr : accessReg (offsetAddr off) 4 = none) :
    exec (.rdreg off) s = .next (s.refuse s.cur .badAccess) := by
  rw [exec_handle _ (by simp) s hidle hh]
  simp [lineCount, line, lineRdreg, State.memRead, hr]

theorem exec_wrreg {off : BitVec 8} {r : Reg} (data : Word) (hr : accessReg (offsetAddr off) 4 = some r) :
    exec (.wrreg off data) s = .next ((s.regWrite r data).complete s.cur none) := by
  rw [exec_handle _ (by simp) s hidle hh]
  simp [lineCount, line, lineWrreg, State.memWrite, hr, State.complete_eq]

theorem exec_wrreg_badOffset {off : BitVec 8} (data : Word) (hr : accessReg (offsetAddr off) 4 = none) :
    exec (.wrreg off data) s = .next (s.refuse s.cur .badAccess) := by
  rw [exec_handle _ (by simp) s hidle hh]
  simp [lineCount, line, lineWrreg, State.memWrite, hr]

end

end Sys2Proof.Machine
end

section
/-! Which registers a command writes, and which bits of CTRL (10_state R26). -/

namespace Sys2Proof.Machine

open Sys2Proof.Claims

/-! ## Words that differ only inside a mask -/

/-- The two words have the same bits outside the mask `m`. -/
def AgreeOutside (m v w : Word) : Prop := ∀ k, m.getLsbD k = false → v.getLsbD k = w.getLsbD k

theorem AgreeOutside.xor_and_not {m v w : Word} (h : AgreeOutside m v w) : (v ^^^ w) &&& ~~~ m = 0 := by
  refine word_ext fun k hk => ?_
  cases hm : m.getLsbD k with
  | false => simp [hm, h k hm]
  | true => simp [hm]

theorem AgreeOutside.refl (m v : Word) : AgreeOutside m v v := fun _ _ => rfl

theorem AgreeOutside.trans {m u v w : Word} (h1 : AgreeOutside m u v) (h2 : AgreeOutside m v w) :
    AgreeOutside m u w := fun k hk => (h1 k hk).trans (h2 k hk)

theorem agreeOutside_allOnes (v w : Word) : AgreeOutside 0xFFFFFFFF v w := by
  intro k hk
  have h32 : ¬ k < 32 := by
    rw [show (0xFFFFFFFF : Word) = BitVec.allOnes 32 from rfl, BitVec.getLsbD_allOnes] at hk
    simpa using hk
  rw [BitVec.getLsbD_of_ge v k (by omega), BitVec.getLsbD_of_ge w k (by omega)]

/-- Setting bits of the mask. -/
theorem agreeOutside_or {m a : Word} (v : Word) (ha : ∀ k, m.getLsbD k = false → a.getLsbD k = false) :
    AgreeOutside m (v ||| a) v := fun k hk => by simp [ha k hk]

theorem bit_of_or_eq_false {v w : Word} {k : Nat} (h : (v ||| w).getLsbD k = false) :
    v.getLsbD k = false ∧ w.getLsbD k = false := by
  simpa using h

/-- Clearing bits of the mask. -/
theorem agreeOutside_and_not {m : Word} (v : Word) : AgreeOutside m (v &&& ~~~ m) v := by
  intro k hk
  by_cases h32 : k < 32
  · rw [BitVec.getLsbD_and, BitVec.getLsbD_not, hk]
    simp [h32]
  · simp [BitVec.getLsbD_of_ge v k (by omega)]

/-- A prescaler index lies inside `PRESC_MASK(ch)`. -/
theorem prescAt_subset (ch : Channel) (i : BitVec 4) (k : Nat) (hk : (prescMask ch).getLsbD k = false) :
    (prescAt ch i).getLsbD k = false := by
  rw [prescMask_getLsbD] at hk
  rw [prescAt_getLsbD]
  by_cases hlo : chShift ch ≤ k
  · have hhi : 4 ≤ k - chShift ch := by
      simp [hlo] at hk
      omega
    simp [BitVec.getLsbD_of_ge i _ hhi]
  · simp [hlo]

/-! ## The registers at the end of a command -/

@[simp] theorem State.finish_ctrl (s : State) (h : Nat) (r : Response) : (s.finish h r).ctrl = s.ctrl := rfl
@[simp] theorem State.finish_period0 (s : State) (h : Nat) (r : Response) : (s.finish h r).period0 = s.period0 := rfl
@[simp] theorem State.finish_period1 (s : State) (h : Nat) (r : Response) : (s.finish h r).period1 = s.period1 := rfl
@[simp] theorem State.complete_ctrl (s : State) (h : Nat) (d : Option Word) : (s.complete h d).ctrl = s.ctrl := rfl
@[simp] theorem State.complete_period0 (s : State) (h : Nat) (d : Option Word) :
    (s.complete h d).period0 = s.period0 := rfl
@[simp] theorem State.complete_period1 (s : State) (h : Nat) (d : Option Word) :
    (s.complete h d).period1 = s.period1 := rfl

/-- No register changed. -/
structure SameRegs (s t : State) : Prop where
  ctrl    : t.ctrl = s.ctrl
  period0 : t.period0 = s.period0
  period1 : t.period1 = s.period1

theorem SameRegs.trans {s t u : State} (h1 : SameRegs s t) (h2 : SameRegs t u) : SameRegs s u :=
  ⟨h2.ctrl.trans h1.ctrl, h2.period0.trans h1.period0, h2.period1.trans h1.period1⟩

theorem sameRegs_raise (s : State) (h : Nat) (e : Status) : SameRegs s (s.raise h e) := ⟨rfl, rfl, rfl⟩
theorem sameRegs_refuse (s : State) (h : Nat) (r : RefuseReason) : SameRegs s (s.refuse h r) := ⟨rfl, rfl, rfl⟩

/-- No line of INIT writes a register. -/
theorem sameRegs_lineInit (h n : Nat) (l : Locals) (s : State) : SameRegs s (lineInit h n l s) := by
  have hopen : SameRegs s s.accessorOpen.2 := ⟨by simp, by simp, by simp⟩
  have hmap : SameRegs s s.accessorMap.2 := ⟨by simp, by simp, by simp⟩
  unfold lineInit
  split
  · dsimp only
    split
    · exact hopen.trans ⟨rfl, rfl, rfl⟩
    · exact hopen.trans ⟨rfl, rfl, rfl⟩
  · exact ⟨rfl, rfl, rfl⟩
  · exact ⟨rfl, rfl, rfl⟩
  · dsimp only
    split
    · exact hmap.trans ⟨rfl, rfl, rfl⟩
    · exact hmap.trans ⟨rfl, rfl, rfl⟩
  · exact ⟨rfl, rfl, rfl⟩
  · exact ⟨rfl, rfl, rfl⟩
  · exact ⟨rfl, rfl, rfl⟩

/-- What every line of a body keeps, a run of its lines keeps. -/
theorem runLines_induction {P : State → Prop} {body : Body} {h : Nat} (hstep : ∀ n l t, P t → P (body h n l t))
    (k : Nat) {s : State} (hs : P s) : P (runLines body h k s) := by
  induction k generalizing s with
  | zero => exact hs
  | succ k ih =>
    cases hc : (s.host h).ctl with
    | idle => rwa [runLines_idle _ _ _ _ hc]
    | busy cmd n l =>
      rw [runLines_busy _ _ _ _ hc]
      exact ih (hstep n l s hs)

theorem sameRegs_exec_init {s t : State} (ht : exec .init s = .next t) : SameRegs s t := by
  have hidle := ready_of_exec ht
  rw [exec_eq_runCommand, runCommand_idle _ _ _ _ hidle] at ht
  cases ht
  exact runLines_induction (P := SameRegs s) (fun n l t hst => hst.trans (sameRegs_lineInit _ n l t)) _ ⟨rfl, rfl, rfl⟩

/-! ## The writes of each command -/

/-- From `s` to `t` only what 10_state R26 gives to the command `i` was written. -/
structure WritesOnly (i : Instr) (s t : State) : Prop where
  ctrl    : AgreeOutside (ctrlWriteMask i) t.ctrl s.ctrl
  period0 : t.period0 ≠ s.period0 → (∃ p d, i = .config .ch0 p d) ∨ ∃ data, i = .wrreg 0x04 data
  period1 : t.period1 ≠ s.period1 → (∃ p d, i = .config .ch1 p d) ∨ ∃ data, i = .wrreg 0x08 data

theorem SameRegs.writesOnly {i : Instr} {s t : State} (h : SameRegs s t) : WritesOnly i s t where
  ctrl := h.ctrl ▸ .refl _ _
  period0 hp := absurd h.period0 hp
  period1 hp := absurd h.period1 hp

theorem agreeOutside_modifyCtrl {m : Word} {s : State} {f : Word → Word} (hs : s.params.unnamedRead = .storage)
    (hf : ∀ v, AgreeOutside m (f v) v) : AgreeOutside m (s.modifyCtrl f).ctrl s.ctrl := by
  rw [State.modifyCtrl_ctrl, State.regValue_ctrl_storage hs]
  exact hf _

/-- A command that modifies CTRL inside its mask and then ends. -/
theorem writesOnly_modifyCtrl {i : Instr} {s : State} {f : Word → Word} (h : Nat) (d : Option Word)
    (hs : s.params.unnamedRead = .storage) (hf : ∀ v, AgreeOutside (ctrlWriteMask i) (f v) v) :
    WritesOnly i s ((s.modifyCtrl f).complete h d) where
  ctrl := agreeOutside_modifyCtrl hs hf
  period0 hp := absurd (by simp) hp
  period1 hp := absurd (by simp) hp

/-! ## CONFIG -/

@[simp] theorem State.modifyCtrl_reg_period (s : State) (f : Word → Word) (c : Channel) :
    (s.modifyCtrl f).reg (.period c) = s.reg (.period c) := by
  cases c <;> simp [State.reg]

@[simp] theorem State.afterRead_reg_period (s : State) (r : Reg) (c : Channel) :
    (s.afterRead r).reg (.period c) = s.reg (.period c) := by
  cases c <;> simp [State.reg]

@[simp] theorem State.writePeriod_reg_period (s : State) (ch : Channel) (v : Word) (c : Channel) :
    (s.regWrite (.period ch) v).reg (.period c) = if c = ch then v else s.reg (.period c) := by
  cases ch <;> cases c <;> rfl

@[simp] theorem State.writePeriod_ctrl (s : State) (ch : Channel) (v : Word) :
    (s.regWrite (.period ch) v).ctrl = s.ctrl := by
  cases ch <;> rfl

/-- CONFIG stores the TPE's word to its own channel's period register alone (43_configure R157). -/
theorem State.configured_reg_period (s : State) (ch : Channel) (r : TpeResult) (c : Channel) :
    (s.configured ch r).reg (.period c) = if c = ch then r.word else s.reg (.period c) := by
  unfold State.configured
  dsimp only
  split <;> simp

/-- Each of CONFIG's writes to CTRL stays inside `PRESC_MASK(ch)` and `GATE_BIT(ch)`. -/
theorem agreeOutside_configured {s : State} (ch : Channel) (r : TpeResult) (hs : s.params.unnamedRead = .storage) :
    AgreeOutside (prescMask ch ||| gateBit ch) (s.configured ch r).ctrl s.ctrl := by
  have hclear : AgreeOutside (prescMask ch ||| gateBit ch)
      (s.modifyCtrl (· &&& ~~~ (prescMask ch ||| gateBit ch))).ctrl s.ctrl :=
    agreeOutside_modifyCtrl hs agreeOutside_and_not
  have hpresc {t : State} (ht : t.params.unnamedRead = .storage) :
      AgreeOutside (prescMask ch ||| gateBit ch) (t.modifyCtrl (· ||| prescAt ch r.idx)).ctrl t.ctrl :=
    agreeOutside_modifyCtrl ht fun v => agreeOutside_or v fun k hk =>
      prescAt_subset ch r.idx k (bit_of_or_eq_false hk).1
  have hgate {t : State} (ht : t.params.unnamedRead = .storage) :
      AgreeOutside (prescMask ch ||| gateBit ch) (t.modifyCtrl (· ||| gateBit ch)).ctrl t.ctrl :=
    agreeOutside_modifyCtrl ht fun v => agreeOutside_or v fun _ hk => (bit_of_or_eq_false hk).2
  unfold State.configured
  rw [State.afterRead_storage s _ hs]
  dsimp only
  split
  · refine (hgate (by simpa using hs)).trans ?_
    rw [State.writePeriod_ctrl]
    exact (hpresc (by simpa using hs)).trans hclear
  · rw [State.writePeriod_ctrl]
    exact (hpresc (by simpa using hs)).trans hclear

theorem writesOnly_configured {s : State} (ch : Channel) (p d : BitVec 64) (r : TpeResult) (h : Nat)
    (hs : s.params.unnamedRead = .storage) :
    WritesOnly (.config ch p d) s ((s.configured ch r).complete h none) where
  ctrl := agreeOutside_configured ch r hs
  period0 hp := by
    cases ch with
    | ch0 => exact .inl ⟨p, d, rfl⟩
    | ch1 => exact absurd (s.configured_reg_period .ch1 r .ch0) hp
  period1 hp := by
    cases ch with
    | ch0 => exact absurd (s.configured_reg_period .ch0 r .ch1) hp
    | ch1 => exact .inl ⟨p, d, rfl⟩

/-- CONFIG of a context with a handle, whatever the TPE answers. -/
theorem writesOnly_exec_config {s t : State} (ch : Channel) (p d : BitVec 64) (hs : s.params.unnamedRead = .storage)
    (hidle : (s.host s.cur).ctl = .idle) (hh : (s.host s.cur).handle ≠ none) (ht : exec (.config ch p d) s = .next t) :
    WritesOnly (.config ch p d) s t := by
  by_cases hp : p = 0
  · subst hp
    rw [exec_config_zero hidle hh] at ht
    cases ht
    exact (sameRegs_refuse s _ _).writesOnly
  · cases hr : tpe p.toNat d.toNat with
    | none =>
      rw [exec_config_unrepresentable hidle hh ch hp hr] at ht
      cases ht
      exact (sameRegs_raise s _ _).writesOnly
    | some r =>
      rw [exec_config hidle hh ch hp hr] at ht
      cases ht
      exact writesOnly_configured ch p d r _ hs

/-! ## RDREG and WRREG -/

/-- The registers the offsets of a raw access name (20_memory R51). -/
theorem accessReg_offsetAddr (off : BitVec 8) : accessReg (offsetAddr off) 4 =
    if off = 0x00 then some .ctrl else if off = 0x04 then some (.period .ch0)
    else if off = 0x08 then some (.period .ch1) else none := by
  have hoff (k : BitVec 8) : offsetAddr off = Config.pwmBase + k.setWidth 32 ↔ off = k := by
    rw [offsetAddr, BitVec.add_right_inj]
    exact ⟨fun h => by bv_omega, fun h => h ▸ rfl⟩
  have hctrl : offsetAddr off = regAddr .ctrl ↔ off = 0x00 := hoff 0x00
  have hperiod0 : offsetAddr off = regAddr (.period .ch0) ↔ off = 0x04 := hoff 0x04
  have hperiod1 : offsetAddr off = regAddr (.period .ch1) ↔ off = 0x08 := hoff 0x08
  simp only [accessReg, hctrl, hperiod0, hperiod1, ne_eq, not_true_eq_false, if_false]

theorem sameRegs_exec_rdreg {s t : State} (off : BitVec 8) (hidle : (s.host s.cur).ctl = .idle)
    (hh : (s.host s.cur).handle ≠ none) (ht : exec (.rdreg off) s = .next t) : SameRegs s t := by
  cases hr : accessReg (offsetAddr off) 4 with
  | none =>
    rw [exec_rdreg_badOffset hidle hh hr] at ht
    cases ht
    exact sameRegs_refuse s _ _
  | some r =>
    rw [exec_rdreg hidle hh hr] at ht
    cases ht
    exact ⟨by simp, by simp, by simp⟩

theorem writesOnly_wrreg (s : State) (off : BitVec 8) (data : Word) (h : Nat) {r : Reg}
    (hr : accessReg (offsetAddr off) 4 = some r) :
    WritesOnly (.wrreg off data) s ((s.regWrite r data).complete h none) := by
  rw [accessReg_offsetAddr] at hr
  split_ifs at hr with h0 h4 h8 <;> cases hr
  · refine ⟨?_, fun hp => absurd rfl hp, fun hp => absurd rfl hp⟩
    rw [ctrlWriteMask, if_pos h0]
    exact agreeOutside_allOnes _ _
  · exact ⟨.refl _ _, fun _ => .inr ⟨data, h4 ▸ rfl⟩, fun hp => absurd rfl hp⟩
  · exact ⟨.refl _ _, fun hp => absurd rfl hp, fun _ => .inr ⟨data, h8 ▸ rfl⟩⟩

theorem writesOnly_exec_wrreg {s t : State} (off : BitVec 8) (data : Word) (hidle : (s.host s.cur).ctl = .idle)
    (hh : (s.host s.cur).handle ≠ none) (ht : exec (.wrreg off data) s = .next t) :
    WritesOnly (.wrreg off data) s t := by
  cases hr : accessReg (offsetAddr off) 4 with
  | none =>
    rw [exec_wrreg_badOffset hidle hh data hr] at ht
    cases ht
    exact (sameRegs_refuse s _ _).writesOnly
  | some r =>
    rw [exec_wrreg hidle hh data hr] at ht
    cases ht
    exact writesOnly_wrreg s off data _ hr

/-! ## Every command -/

theorem agreeOutside_withBit (m : Word) (b : Bool) (v : Word) : AgreeOutside m (withBit v m b) v := by
  cases b with
  | false => exact agreeOutside_and_not v
  | true => exact agreeOutside_or v fun _ hk => hk

theorem writesOnly_exec {i : Instr} {s t : State} (hs : s.params.unnamedRead = .storage) (ht : exec i s = .next t) :
    WritesOnly i s t := by
  have hidle := ready_of_exec ht
  by_cases hi : i = .init
  · subst hi
    exact (sameRegs_exec_init ht).writesOnly
  by_cases hh : (s.host s.cur).handle = none
  · rw [exec_noHandle hidle hi hh] at ht
    cases ht
    exact (sameRegs_raise s _ _).writesOnly
  cases i with
  | init => exact absurd rfl hi
  | setpol ch pol =>
    rw [exec_setpol hidle hh] at ht
    cases ht
    exact writesOnly_modifyCtrl _ _ hs (agreeOutside_withBit _ _)
  | config ch p d => exact writesOnly_exec_config ch p d hs hidle hh ht
  | enable ch =>
    rw [exec_enable hidle hh] at ht
    cases ht
    exact writesOnly_modifyCtrl _ _ hs fun v => BitVec.or_assoc v _ _ ▸ agreeOutside_or v fun _ hk => hk
  | disable ch =>
    rw [exec_disable hidle hh] at ht
    cases ht
    exact writesOnly_modifyCtrl _ _ hs agreeOutside_and_not
  | rdreg off => exact (sameRegs_exec_rdreg off hidle hh ht).writesOnly
  | wrreg off data => exact writesOnly_exec_wrreg off data hidle hh ht

/-- Settles O27: whatever a command does, its writes stay inside its own registers and bits. -/
theorem commandsWriteOnlyTheirRegisters : Obligations.CommandsWriteOnlyTheirRegisters := by
  intro i s t hs ht
  obtain ⟨hctrl, hperiod0, hperiod1⟩ := writesOnly_exec hs ht
  exact ⟨hctrl.xor_and_not, hperiod0, hperiod1⟩

end Sys2Proof.Machine
end

section
/-! What a successful CONFIG leaves in `PRESC[ch]` and `PRD_M1[ch]` (10_state R40, 43_configure R155 to R157). -/

namespace Sys2Proof.Machine

open Sys2Proof.Claims

/-! ## `PRESC` of words put together -/

theorem presc_or (v w : Word) (ch : Channel) : presc (v ||| w) ch = presc v ch ||| presc w ch := by
  refine BitVec.eq_of_getLsbD_eq fun k _ => ?_
  simp only [presc_getLsbD, BitVec.getLsbD_or, Bool.and_or_distrib_left]

theorem presc_and (v w : Word) (ch : Channel) : presc (v &&& w) ch = presc v ch &&& presc w ch := by
  refine BitVec.eq_of_getLsbD_eq fun k hk => ?_
  simp only [presc_getLsbD, BitVec.getLsbD_and, hk, decide_true, Bool.true_and]

theorem presc_namedMask (ch : Channel) : presc namedMask ch = BitVec.allOnes 4 := by cases ch <;> decide
theorem presc_gateBit (ch : Channel) : presc (gateBit ch) ch = 0#4 := by cases ch <;> decide
theorem presc_not_clearMask (ch : Channel) : presc (~~~ (prescMask ch ||| gateBit ch)) ch = 0#4 := by
  cases ch <;> decide

/-- The index put at its place is the index read there. -/
theorem presc_prescAt (ch : Channel) (i : BitVec 4) : presc (prescAt ch i) ch = i := by
  refine BitVec.eq_of_getLsbD_eq fun k hk => ?_
  rw [presc_getLsbD, prescAt_getLsbD]
  simp [hk]

/-- The prescaler index reads as stored, whichever way the unnamed bits read. -/
theorem presc_regValue (s : State) (ch : Channel) : presc (s.regValue .ctrl) ch = presc s.ctrl ch := by
  have h := congrArg (presc · ch) s.regValue_ctrl_and_namedMask
  simpa only [presc_and, presc_namedMask, BitVec.and_allOnes] using h

/-- CONFIG leaves the TPE's index in `PRESC[ch]`. -/
theorem presc_configured (s : State) (ch : Channel) (r : TpeResult) : presc (s.configured ch r).ctrl ch = r.idx := by
  have hclear (t : State) : presc (t.modifyCtrl (· &&& ~~~ (prescMask ch ||| gateBit ch))).ctrl ch = 0#4 := by
    rw [State.modifyCtrl_ctrl, presc_and, presc_not_clearMask, BitVec.and_zero]
  have hpresc {t : State} (ht : presc t.ctrl ch = 0#4) :
      presc (t.modifyCtrl (· ||| prescAt ch r.idx)).ctrl ch = r.idx := by
    rw [State.modifyCtrl_ctrl, presc_or, presc_regValue, ht, presc_prescAt, BitVec.zero_or]
  have hgate (t : State) : presc (t.modifyCtrl (· ||| gateBit ch)).ctrl ch = presc t.ctrl ch := by
    rw [State.modifyCtrl_ctrl, presc_or, presc_regValue, presc_gateBit, BitVec.or_zero]
  unfold State.configured
  dsimp only
  split
  · rw [hgate, State.writePeriod_ctrl, hpresc (hclear _)]
  · rw [State.writePeriod_ctrl, hpresc (hclear _)]

theorem State.configured_host (s : State) (ch : Channel) (r : TpeResult) (h : Nat) :
    (s.configured ch r).host h = s.host h := by
  unfold State.configured
  dsimp only
  split <;> simp

/-! ## The TPE's result -/

/-- An index the TPE accepts is the one of its result (42_encoder R122, R126). -/
theorem tpe_eq_some {periodNs dutyNs : Nat} {r : TpeResult} (hr : tpe periodNs dutyNs = some r) :
    ∃ i ≤ searchLast, accepts i periodNs = true ∧ r = tpeResult periodNs dutyNs i := by
  obtain ⟨i, hi, rfl⟩ := Option.map_eq_some_iff.mp hr
  have hacc : accepts i periodNs = true := List.find?_some (p := (accepts · periodNs)) hi
  exact ⟨i, Nat.lt_succ_iff.mp (List.mem_range.mp (List.mem_of_find?_eq_some hi)), hacc, rfl⟩

theorem accepts_iff (i periodNs : Nat) : accepts i periodNs = true ↔
    divisor i ≠ 0 ∧ 1 ≤ tickCount i periodNs ∧ tickCount i periodNs ≤ 65536 := by
  simp [accepts, and_assoc]

/-- The indices of the search that are no sentinels (30_encoding R79). -/
theorem validIndex_of_divisor {i : Nat} (hi : i ≤ searchLast) (hd : divisor i ≠ 0) :
    i ∈ [0, 1, 2, 3, 4, 8, 9, 10, 11, 12] := by
  have hi' : i ≤ 14 := hi
  interval_cases i <;> simp [divisor, prescalerTable] at hd ⊢

/-- A period the TPE accepts is not zero. -/
theorem tpe_periodNs_ne_zero {p d : BitVec 64} {r : TpeResult} (hr : tpe p.toNat d.toNat = some r) : p ≠ 0 := by
  rintro rfl
  obtain ⟨i, -, hacc, -⟩ := tpe_eq_some hr
  obtain ⟨-, hpos, -⟩ := (accepts_iff _ _).mp hacc
  simp [tickCount] at hpos

/-- Bits 31:16 of a packed PERIOD word (30_encoding R76). -/
theorem prdM1_pack (t d : Nat) : prdM1 (pack t d) = BitVec.ofNat 16 (t - 1) := by
  refine BitVec.eq_of_getLsbD_eq fun k hk => ?_
  have hmask : (0xFFFF : Word).getLsbD (16 + k) = false := by
    rw [show (0xFFFF : Word) = BitVec.ofNat 32 (2 ^ 16 - 1) from rfl, ones_getLsbD 16 _ (by decide)]
    simp
  rw [prdM1, pack, BitVec.getLsbD_extractLsb', BitVec.getLsbD_or, BitVec.getLsbD_and, shl_getLsbD, hmask]
  have hk32 : k < 32 ∧ 16 + k < 32 := by omega
  simp only [BitVec.getLsbD_ofNat, hk, hk32, Nat.add_sub_cancel_left]
  simp

/-- What the TPE's result says of the fields it is stored in (42_encoder R125). -/
theorem tpe_fields {periodNs dutyNs : Nat} {r : TpeResult} (hr : tpe periodNs dutyNs = some r) :
    r.idx.toNat ∈ [0, 1, 2, 3, 4, 8, 9, 10, 11, 12] ∧ 1 ≤ r.periodTicks ∧ r.periodTicks ≤ 65536 ∧
      (prdM1 r.word).toNat = r.periodTicks - 1 := by
  obtain ⟨i, hi, hacc, rfl⟩ := tpe_eq_some hr
  obtain ⟨hdiv, hpos, hle⟩ := (accepts_iff _ _).mp hacc
  have hi' : i ≤ 14 := hi
  refine ⟨?_, hpos, hle, ?_⟩
  · rw [tpeResult, BitVec.toNat_ofNat, Nat.mod_eq_of_lt (by omega)]
    exact validIndex_of_divisor hi hdiv
  · rw [tpeResult, prdM1_pack, BitVec.toNat_ofNat]
    exact Nat.mod_eq_of_lt (by omega)

/-- Settles O30: CONFIG stores the TPE's index and word, and these have the properties asked for. -/
theorem configuredFieldsAreValid : Obligations.ConfiguredFieldsAreValid := by
  intro ch p d r s hidle hh hr
  obtain ⟨hidx, hpos, hle, hprd⟩ := tpe_fields hr
  have hperiod : ((s.configured ch r).complete s.cur none).period ch = r.word := by
    simp [State.period, State.complete_eq, State.finish_eq, State.configured_reg_period]
  refine ⟨_, exec_config hidle hh ch (tpe_periodNs_ne_zero hr) hr, ?_, ?_, hpos, hle, ?_, ?_⟩
  · simp [State.complete_eq, State.finish_eq, State.configured_host, okResponse]
  · rwa [State.complete_ctrl, presc_configured]
  · rwa [hperiod]
  · rw [hperiod, hprd]
    omega

end Sys2Proof.Machine
end

section
/-! The three registers as a map (20_memory R56, R60): read after write, one write after another, and which operations
leave every register alone. -/

namespace Sys2Proof.Machine

@[simp] theorem State.regWrite_reg_same (s : State) (r : Reg) (v : Word) : (s.regWrite r v).reg r = v := by
  rcases r with _ | ⟨_ | _⟩ <;> rfl

theorem State.regWrite_reg_other (s : State) {r q : Reg} (v : Word) (hq : q ≠ r) :
    (s.regWrite r v).reg q = s.reg q := by
  rcases r with _ | ch <;> rcases q with _ | c
  · exact absurd rfl hq
  · cases c <;> rfl
  · exact s.writePeriod_ctrl ch v
  · rw [State.writePeriod_reg_period, if_neg fun hc => hq (congrArg Reg.period hc)]

@[simp] theorem State.regWrite_regWrite (s : State) (r : Reg) (u v : Word) :
    (s.regWrite r u).regWrite r v = s.regWrite r v := by
  rcases r with _ | ⟨_ | _⟩ <;> rfl

@[simp] theorem State.afterRead_reg (s : State) (r q : Reg) : (s.afterRead r).reg q = s.reg q := by
  rcases q with _ | ⟨_ | _⟩
  · exact s.afterRead_ctrl r
  · exact s.afterRead_period0 r
  · exact s.afterRead_period1 r

@[simp] theorem State.complete_reg (s : State) (h : Nat) (d : Option Word) (r : Reg) :
    (s.complete h d).reg r = s.reg r := s.setHost_reg h _ r

theorem SameRegs.reg {s t : State} (h : SameRegs s t) (r : Reg) : t.reg r = s.reg r := by
  rcases r with _ | ⟨_ | _⟩
  · exact h.ctrl
  · exact h.period0
  · exact h.period1

/-- A PERIOD register reads as stored, and the read uses nothing up (10_state R24 speaks of CTRL only). -/
theorem State.regRead_period (s : State) (ch : Channel) : s.regRead (.period ch) = (s.reg (.period ch), s) := by
  cases ch <;> rfl

/-- Settles O33, by the rules of the register map. -/
theorem registerAccessTouchesOnlyItsRegister : Obligations.RegisterAccessTouchesOnlyItsRegister := by
  intro s r q v
  refine ⟨by simp, s.regWrite_reg_other v, by simp, by simp, fun ch => ?_, by simp, by simp⟩
  simp [State.regRead_period]

end Sys2Proof.Machine
end

section
/-! Which accesses are admitted (20_memory R51, R57): the words at the addresses of the three registers. -/

namespace Sys2Proof.Machine

theorem accessReg_eq_some_iff (addr : Word) (n : Nat) (r : Reg) :
    accessReg addr n = some r ↔ n = 4 ∧ addr = regAddr r := by
  constructor
  · intro h
    unfold accessReg at h
    split_ifs at h with hn hctrl hperiod0 hperiod1 <;> cases h
    · exact ⟨not_not.mp hn, hctrl⟩
    · exact ⟨not_not.mp hn, hperiod0⟩
    · exact ⟨not_not.mp hn, hperiod1⟩
  · rintro ⟨rfl, rfl⟩
    rcases r with _ | ⟨_ | _⟩ <;> rfl

/-- The addresses of the registers, written out (20_memory R51). -/
theorem exists_eq_regAddr_iff (addr : Word) :
    (∃ r, addr = regAddr r) ↔ addr = 0x01c20e00 ∨ addr = 0x01c20e04 ∨ addr = 0x01c20e08 := by
  constructor
  · rintro ⟨_ | ⟨_ | _⟩, rfl⟩
    · exact .inl rfl
    · exact .inr (.inl rfl)
    · exact .inr (.inr rfl)
  · rintro (rfl | rfl | rfl)
    · exact ⟨.ctrl, rfl⟩
    · exact ⟨.period .ch0, rfl⟩
    · exact ⟨.period .ch1, rfl⟩

/-- Settles O35: an access reaches `r` exactly when it is a word access at the address of `r`. -/
theorem onlyWordAccessesAtRegistersAdmitted : Obligations.OnlyWordAccessesAtRegistersAdmitted := by
  refine fun addr n => ⟨?_, fun r hr => ((accessReg_eq_some_iff addr n r).mp hr).2⟩
  simp only [Option.ne_none_iff_exists', accessReg_eq_some_iff, exists_and_left, exists_eq_regAddr_iff]

theorem accessReg_eq_none_of_badOffset {off : BitVec 8} (h : validOffset off = false) :
    accessReg (offsetAddr off) 4 = none := by
  simp only [validOffset, Bool.or_eq_false_iff, beq_eq_false_iff_ne] at h
  obtain ⟨⟨h0, h4⟩, h8⟩ := h
  rw [accessReg_offsetAddr, if_neg h0, if_neg h4, if_neg h8]

/-- A refusal leaves every context with an idle controller as it was. -/
theorem State.refuse_host (s : State) {h : Nat} (r : RefuseReason) (hidle : (s.host h).ctl = .idle) (k : Nat) :
    (s.refuse h r).host k = s.host k := by
  rw [State.refuse_eq]
  by_cases hk : k = h
  · subst hk
    rw [State.setHost_host_same, ← hidle]
  · rw [State.setHost_host_other _ _ hk, State.mark_host]

/-- Settles O24: at such an offset the access reaches no register, so the command ends in a refusal. -/
theorem badOffsetRefusedBadAccess : Obligations.BadOffsetRefusedBadAccess := by
  intro off data s hidle hh hoff i hi
  have hnone := accessReg_eq_none_of_badOffset hoff
  have hexec : exec i s = .next (s.refuse s.cur .badAccess) := by
    rcases List.mem_pair.mp hi with rfl | rfl
    · exact exec_rdreg_badOffset hidle hh hnone
    · exact exec_wrreg_badOffset hidle hh data hnone
  exact ⟨_, hexec, rfl, rfl, rfl, rfl, s.refuse_host _ hidle⟩

end Sys2Proof.Machine
end

section
/-! The bytes of the register file (20_memory R52, R58): each is a byte of one register's word. -/

namespace Sys2Proof.Machine

/-- Byte `k` of a register. -/
theorem State.physByte_regAddr_add (s : State) (r : Reg) {k : Nat} (hk : k < 4) :
    s.physByte ((regAddr r).toNat + k) = some (wordByte (s.reg r) k) := by
  rcases r with _ | ⟨_ | _⟩ <;> interval_cases k <;> rfl

/-- No byte outside the block. -/
theorem State.physByte_outside (s : State) {a : Nat} (ha : a < 0x01c20e00 ∨ 0x01c20e0c ≤ a) : s.physByte a = none :=
  if_pos (show a < 0x01c20e00 ∨ 12 ≤ a - 0x01c20e00 by omega)

/-- Every address lies outside the block or names a byte of a register. -/
theorem outside_or_byte_of_reg (a : Nat) :
    (a < 0x01c20e00 ∨ 0x01c20e0c ≤ a) ∨ ∃ r, ∃ k < 4, a = (regAddr r).toNat + k := by
  have hctrl : (regAddr .ctrl).toNat = 0x01c20e00 := rfl
  have hperiod0 : (regAddr (.period .ch0)).toNat = 0x01c20e04 := rfl
  have hperiod1 : (regAddr (.period .ch1)).toNat = 0x01c20e08 := rfl
  by_cases hout : a < 0x01c20e00 ∨ 0x01c20e0c ≤ a
  · exact .inl hout
  refine .inr ?_
  by_cases h4 : a < 0x01c20e04
  · exact ⟨.ctrl, a - 0x01c20e00, by omega, by omega⟩
  by_cases h8 : a < 0x01c20e08
  · exact ⟨.period .ch0, a - 0x01c20e04, by omega, by omega⟩
  · exact ⟨.period .ch1, a - 0x01c20e08, by omega, by omega⟩

/-- The byte at an address depends on no register but the one that lies there. -/
theorem State.physByte_congr {s t : State} {a : Nat}
    (h : ∀ r, (regAddr r).toNat ≤ a → a < (regAddr r).toNat + 4 → t.reg r = s.reg r) :
    t.physByte a = s.physByte a := by
  rcases outside_or_byte_of_reg a with hout | ⟨r, k, hk, rfl⟩
  · rw [t.physByte_outside hout, s.physByte_outside hout]
  · rw [t.physByte_regAddr_add r hk, s.physByte_regAddr_add r hk, h r (by omega) (by omega)]

/-- Settles O36, register by register and byte by byte. -/
theorem registerBytesAreLittleEndian : Obligations.RegisterBytesAreLittleEndian :=
  ⟨fun s r _ hk => s.physByte_regAddr_add r hk, fun s _ ha => s.physByte_outside ha⟩

end Sys2Proof.Machine
end

section
/-! The frame in memory (20_memory R60, 10_state R26): a register a command does not store to keeps its word, and so the
bytes outside the stored registers keep their values. -/

namespace Sys2Proof.Machine

open Sys2Proof.Claims

/-- What a CONFIG of a context with a handle does to the registers: nothing when it is refused or ends with an error, or
else all its accesses (43_configure R150). -/
theorem exec_config_cases {s t : State} {ch : Channel} {p d : BitVec 64} (hidle : (s.host s.cur).ctl = .idle)
    (hh : (s.host s.cur).handle ≠ none) (ht : exec (.config ch p d) s = .next t) :
    SameRegs s t ∨ ∃ r, t = (s.configured ch r).complete s.cur none := by
  by_cases hp : p = 0
  · subst hp
    rw [exec_config_zero hidle hh] at ht
    cases ht
    exact .inl (sameRegs_refuse s _ _)
  · cases hr : tpe p.toNat d.toNat with
    | none =>
      rw [exec_config_unrepresentable hidle hh ch hp hr] at ht
      cases ht
      exact .inl (sameRegs_raise s _ _)
    | some r =>
      rw [exec_config hidle hh ch hp hr] at ht
      cases ht
      exact .inr ⟨r, rfl⟩

theorem State.modifyCtrl_reg_other (s : State) (f : Word → Word) {r : Reg} (hr : r ≠ .ctrl) :
    (s.modifyCtrl f).reg r = s.reg r := by
  rw [State.modifyCtrl, State.regWrite_reg_other _ _ hr, State.afterRead_reg]

theorem State.configured_reg_other (s : State) {ch : Channel} (x : TpeResult) {r : Reg} (hctrl : r ≠ .ctrl)
    (hperiod : r ≠ .period ch) : (s.configured ch x).reg r = s.reg r := by
  cases r with
  | ctrl => exact absurd rfl hctrl
  | period c => rw [State.configured_reg_period, if_neg fun hc => hperiod (congrArg Reg.period hc)]

/-- A command leaves every register it does not store to as it was, however CTRL's unnamed bits read. -/
theorem reg_exec_of_not_mem_storesTo {i : Instr} {s t : State} (ht : exec i s = .next t) {r : Reg}
    (hr : r ∉ storesTo i) : t.reg r = s.reg r := by
  have hidle := ready_of_exec ht
  by_cases hi : i = .init
  · subst hi
    exact (sameRegs_exec_init ht).reg r
  by_cases hh : (s.host s.cur).handle = none
  · rw [exec_noHandle hidle hi hh] at ht
    cases ht
    exact (sameRegs_raise s _ _).reg r
  cases i with
  | init => exact absurd rfl hi
  | setpol ch pol =>
    rw [exec_setpol hidle hh] at ht
    cases ht
    rw [State.complete_reg, State.modifyCtrl_reg_other _ _ (List.ne_of_not_mem_cons hr)]
  | config ch p d =>
    have hctrl := List.ne_of_not_mem_cons hr
    have hperiod := List.ne_of_not_mem_cons (List.not_mem_of_not_mem_cons hr)
    rcases exec_config_cases hidle hh ht with hsame | ⟨x, rfl⟩
    · exact hsame.reg r
    · rw [State.complete_reg, State.configured_reg_other _ _ hctrl hperiod]
  | enable ch =>
    rw [exec_enable hidle hh] at ht
    cases ht
    rw [State.complete_reg, State.modifyCtrl_reg_other _ _ (List.ne_of_not_mem_cons hr)]
  | disable ch =>
    rw [exec_disable hidle hh] at ht
    cases ht
    rw [State.complete_reg, State.modifyCtrl_reg_other _ _ (List.ne_of_not_mem_cons hr)]
  | rdreg off => exact (sameRegs_exec_rdreg off hidle hh ht).reg r
  | wrreg off data =>
    cases hq : accessReg (offsetAddr off) 4 with
    | none =>
      rw [exec_wrreg_badOffset hidle hh data hq] at ht
      cases ht
      exact (sameRegs_refuse s _ _).reg r
    | some q =>
      rw [exec_wrreg hidle hh data hq] at ht
      cases ht
      have hne : r ≠ q := by simpa [storesTo, hq] using hr
      rw [State.complete_reg, State.regWrite_reg_other _ _ hne]

/-- Settles O28: the register that lies at such an address is none the command stores to. -/
theorem bytesOutsideStoredRegistersUnchanged : Obligations.BytesOutsideStoredRegistersUnchanged := by
  intro i s t ht a ha
  refine State.physByte_congr fun r hlo hhi => reg_exec_of_not_mem_storesTo ht fun hr => ?_
  rcases ha r hr with h | h <;> omega

end Sys2Proof.Machine
end

section
/-! The mapping of the initializer (20_memory R54): for `PAGE_SIZE = 2 ^ n` the offset is `PWM_BASE` modulo the page size
and the start is the rest. Both hold for pages of more than `2 ^ 32` bytes too, where the start is 0. -/

namespace Sys2Proof.Machine

/-- `PAGE_SIZE` is a power of two. -/
theorem pageSize_eq_two_pow (p : Params) : p.pageSize = 2 ^ (4 + p.pageExp) := by
  rw [Params.pageSize, pow_add]
  norm_num

theorem sixteen_le_pageSize (p : Params) : 16 ≤ p.pageSize :=
  Nat.le_mul_of_pos_right 16 (Nat.two_pow_pos _)

/-- The low `n` bits of a word, also for `n` above 32. -/
theorem toNat_and_two_pow_sub_one (w : Word) (n : Nat) :
    (w &&& BitVec.ofNat 32 (2 ^ n - 1)).toNat = w.toNat % 2 ^ n := by
  calc (w &&& BitVec.ofNat 32 (2 ^ n - 1)).toNat
      = w.toNat % 2 ^ 32 &&& (2 ^ n - 1) % 2 ^ 32 := by
        rw [BitVec.toNat_and, BitVec.toNat_ofNat, Nat.mod_eq_of_lt w.isLt]
    _ = w.toNat % 2 ^ n % 2 ^ 32 := by
        rw [← Nat.and_mod_two_pow, Nat.and_two_pow_sub_one_eq_mod]
    _ = w.toNat % 2 ^ n := Nat.mod_eq_of_lt ((Nat.mod_le _ _).trans_lt w.isLt)

/-- A word is the sum of its bits inside a mask and those outside. -/
theorem toNat_and_not_add_toNat_and (w m : Word) : (w &&& ~~~ m).toNat + (w &&& m).toNat = w.toNat := by
  have hdisj : (w &&& ~~~ m) &&& (w &&& m) = 0#32 := by
    ext k
    cases hm : m[k] <;> simp [hm]
  have hor : (w &&& ~~~ m) ||| (w &&& m) = w := by
    ext k
    cases hm : m[k] <;> simp [hm]
  rw [← BitVec.toNat_add_of_and_eq_zero hdisj, BitVec.add_eq_or_of_and_eq_zero _ _ hdisj, hor]

theorem mapOffset_toNat (p : Params) : (mapOffset p.pageSize).toNat = Config.pwmBase.toNat % p.pageSize := by
  rw [pageSize_eq_two_pow, mapOffset, toNat_and_two_pow_sub_one]

theorem mapStart_toNat_add_mapOffset_toNat (pageSize : Nat) :
    (mapStart pageSize).toNat + (mapOffset pageSize).toNat = Config.pwmBase.toNat :=
  toNat_and_not_add_toNat_and _ _

theorem mapOffset_lt_pageSize (p : Params) : (mapOffset p.pageSize).toNat < p.pageSize := by
  have h16 := sixteen_le_pageSize p
  rw [mapOffset_toNat]
  exact Nat.mod_lt _ (by omega)

theorem pageSize_dvd_mapStart (p : Params) : p.pageSize ∣ (mapStart p.pageSize).toNat := by
  have hsum := mapStart_toNat_add_mapOffset_toNat p.pageSize
  rw [mapOffset_toNat] at hsum
  rw [Nat.eq_sub_of_add_eq hsum]
  exact Nat.dvd_sub_mod _

/-- The 12 bytes of the registers lie inside the two pages of the mapping. -/
theorem mapOffset_add_twelve_le_mapLen (p : Params) : (mapOffset p.pageSize).toNat + 12 ≤ mapLen p.pageSize := by
  have hlt := mapOffset_lt_pageSize p
  have h16 := sixteen_le_pageSize p
  rw [mapLen, Config.mapPages]
  omega

/-- Settles O37, by the start and the offset as quotient and remainder of `PWM_BASE`. -/
theorem registersLieInsideMapping : Obligations.RegistersLieInsideMapping := fun p =>
  ⟨mapStart_toNat_add_mapOffset_toNat _, pageSize_dvd_mapStart p, mapOffset_lt_pageSize p,
    mapOffset_add_twelve_le_mapLen p⟩

end Sys2Proof.Machine
end

section
/-! INIT on success, and the translation through the handle it wrote (20_memory R55, 40_initialize R100). -/

namespace Sys2Proof.Machine

@[simp] theorem State.toLine_setHandle (s : State) (h : Nat) (cmd : Instr) (n : Nat) (l : Locals) (e : Addr) :
    (s.toLine h cmd n l).setHandle h e = (s.setHandle h e).toLine h cmd n l := by
  simp [State.toLine_eq, State.setHandle_eq]

/-- INIT when the accessor opens and maps: the handle is the mapped address plus the offset (40_initialize R100). -/
theorem exec_init_mapped {s : State} {page : Nat} (hidle : (s.host s.cur).ctl = .idle)
    (hopen : s.accessorOpen.1 = .ok) (hmap : s.accessorOpen.2.accessorMap.1 = .ok page) :
    exec .init s = .next ((s.accessorOpen.2.accessorMap.2.setHandle s.cur
      (effBase (mappedAddr s.params.pageSize page) (mapOffset s.params.pageSize))).complete s.cur none) := by
  rw [exec_eq_runCommand, runCommand_idle _ _ _ _ hidle]
  simp [lineCount, line, lineInit, hopen, hmap, State.complete_eq]

/-- An address as far above the handle as a register above `PWM_BASE` designates that register (20_memory R55). -/
theorem State.translate_handle_add_regOffset {s : State} {h : Nat} {e : Addr} (he : (s.host h).handle = some e)
    (r : Reg) : s.translate h (e + (regOffset r).toNat) = some (regAddr r).toNat := by
  have hoff : (regOffset r).toNat < 12 := by rcases r with _ | ⟨_ | _⟩ <;> decide
  have hlen := mapOffset_add_twelve_le_mapLen s.params
  have haddr : (regAddr r).toNat = Config.pwmBase.toNat + (regOffset r).toNat := by
    rcases r with _ | ⟨_ | _⟩ <;> rfl
  rw [State.translate, he]
  dsimp only
  rw [Nat.add_sub_cancel_left, if_pos ⟨Nat.le_add_right _ _, by omega⟩, haddr]

/-- Settles O38: INIT writes the handle, and the whole register block lies inside the mapping. -/
theorem handleTranslatesToRegisters : Obligations.HandleTranslatesToRegisters := by
  intro s page os ms hidle hopens hmaps
  have hopen : s.accessorOpen = (.ok, { s with openAnswers := os }) := by simp [State.accessorOpen, hopens]
  have hmap : s.accessorOpen.2.accessorMap = (.ok page, { s with openAnswers := os, mapAnswers := ms }) := by
    simp [hopen, State.accessorMap, hmaps]
  have hexec := exec_init_mapped hidle (by rw [hopen]) (by rw [hmap])
  rw [hmap] at hexec
  have hhandle (u : State) (h : Nat) (e : Addr) : (((u.setHandle h e).complete h none).host h).handle = some e := by
    simp [State.complete_eq, State.finish_eq, State.setHandle_eq]
  exact ⟨_, hexec, rfl, rfl, hhandle _ _ _, State.translate_handle_add_regOffset (hhandle _ _ _)⟩

end Sys2Proof.Machine
end

section
/-! A command delivered for a context that is still Busy (20_memory R61, 10_state R33). -/

namespace Sys2Proof.Machine

/-- Whichever way it is delivered, the command waits. -/
theorem runEvent_of_busy {s : State} {h n : Nat} {cmd : Instr} {l : Locals} (ws : List Word) (rest : List Event)
    (hb : (s.host h).ctl = .busy cmd n l) :
    s.runEvent (.command h ws) rest = .next (s.waitBusy h) ∧ s.runEvent (.issue h ws) rest = .next (s.waitBusy h) := by
  simp [State.runEvent, hb]

/-- While the next command waits, the context executes the next line of the one under way. -/
theorem State.waitBusy_eq_line {s : State} {h n : Nat} {cmd : Instr} {l : Locals}
    (hb : (s.host h).ctl = .busy cmd n l) : s.waitBusy h = line cmd h n l { s with cur := h } :=
  State.advance_busy { s with cur := h } h hb

/-- Settles O42: the step is the next line, and no line takes anything from the input. -/
theorem busyContextFinishesFirst : Obligations.BusyContextFinishesFirst := by
  intro s h n ws rest cmd l hin hh hb
  have hstep : step s = .next (s.waitBusy h) := by
    rcases hin with hin | hin
    · rw [step_knownHost s _ rest hin hh, (runEvent_of_busy ws rest hb).1]
    · rw [step_knownHost s _ rest hin hh, (runEvent_of_busy ws rest hb).2]
  refine ⟨_, hstep, ?_, State.waitBusy_eq_line hb⟩
  rw [State.waitBusy_eq_line hb, line_input]

end Sys2Proof.Machine
end

section
/-! The fields of a command word as digits of the number it is (30_encoding R84), and a command word as the sum of its
fields: a word whose must-be-zero fields are zero is put together from the other four. -/

namespace Sys2Proof

theorem opField_toNat (cw : Word) : (opField cw).toNat = cw.toNat % 16 := by
  simp [opField, BitVec.extractLsb'_toNat]
theorem chField_toNat (cw : Word) : (chField cw).toNat = cw.toNat / 16 % 2 := by
  simp [chField, BitVec.extractLsb'_toNat, Nat.shiftRight_eq_div_pow]
theorem polField_toNat (cw : Word) : (polField cw).toNat = cw.toNat / 32 % 2 := by
  simp [polField, BitVec.extractLsb'_toNat, Nat.shiftRight_eq_div_pow]
theorem z0Field_toNat (cw : Word) : (z0Field cw).toNat = cw.toNat / 64 % 4 := by
  simp [z0Field, BitVec.extractLsb'_toNat, Nat.shiftRight_eq_div_pow]
theorem offField_toNat (cw : Word) : (offField cw).toNat = cw.toNat / 256 % 256 := by
  simp [offField, BitVec.extractLsb'_toNat, Nat.shiftRight_eq_div_pow]
theorem z1Field_toNat (cw : Word) : (z1Field cw).toNat = cw.toNat / 65536 := by
  rw [z1Field, BitVec.extractLsb'_toNat, Nat.shiftRight_eq_div_pow]
  exact Nat.mod_eq_of_lt (by omega)

/-- Fields that do not meet add up. -/
theorem or_shiftLeft_toNat {a b : Word} {n : Nat} (ha : a.toNat < 2 ^ n) (hb : b.toNat * 2 ^ n < 2 ^ 32) :
    (a ||| b <<< n).toNat = a.toNat + b.toNat * 2 ^ n := by
  rw [BitVec.toNat_or, BitVec.toNat_shiftLeft, Nat.shiftLeft_eq, Nat.mod_eq_of_lt hb, Nat.or_comm, Nat.mul_comm,
    ← Nat.two_pow_add_eq_or_of_lt ha, Nat.add_comm]

theorem commandWord_toNat (op : BitVec 4) (ch pol : BitVec 1) (off : BitVec 8) :
    (commandWord (op.setWidth 32) ch pol off).toNat = op.toNat + 16 * ch.toNat + 32 * pol.toNat + 256 * off.toNat := by
  have hop : (op.setWidth 32).toNat = op.toNat := BitVec.toNat_setWidth_of_le (by decide)
  have hch : (ch.setWidth 32).toNat = ch.toNat := BitVec.toNat_setWidth_of_le (by decide)
  have hpol : (pol.setWidth 32).toNat = pol.toNat := BitVec.toNat_setWidth_of_le (by decide)
  have hoff : (off.setWidth 32).toNat = off.toNat := BitVec.toNat_setWidth_of_le (by decide)
  have h1 := or_shiftLeft_toNat (a := op.setWidth 32) (b := ch.setWidth 32) (n := 4) (by omega) (by omega)
  have h2 := or_shiftLeft_toNat (a := op.setWidth 32 ||| ch.setWidth 32 <<< 4) (b := pol.setWidth 32) (n := 5)
    (by omega) (by omega)
  have h3 := or_shiftLeft_toNat (a := op.setWidth 32 ||| ch.setWidth 32 <<< 4 ||| pol.setWidth 32 <<< 5)
    (b := off.setWidth 32) (n := 8) (by omega) (by omega)
  rw [commandWord]
  omega

/-- A word with no bit in `Z0` and `Z1` is put together from its other fields: no bit of it is ignored. -/
theorem commandWord_fields {cw : Word} (hz1 : z1Field cw = 0) (hz0 : z0Field cw = 0) :
    commandWord ((opField cw).setWidth 32) (chField cw) (polField cw) (offField cw) = cw := by
  have h1 : cw.toNat / 65536 = 0 := by rw [← z1Field_toNat, hz1]; rfl
  have h0 : cw.toNat / 64 % 4 = 0 := by rw [← z0Field_toNat, hz0]; rfl
  apply BitVec.eq_of_toNat_eq
  rw [commandWord_toNat, opField_toNat, chField_toNat, polField_toNat, offField_toNat]
  omega

@[simp] theorem Channel.bit_ofBit (b : BitVec 1) : (Channel.ofBit b).bit = b := by
  rcases BitVec.eq_zero_or_eq_one b with rfl | rfl <;> rfl
@[simp] theorem Polarity.bit_ofBit (b : BitVec 1) : (Polarity.ofBit b).bit = b := by
  rcases BitVec.eq_zero_or_eq_one b with rfl | rfl <;> rfl

@[simp] theorem low32_join64 (lo hi : Word) : low32 (join64 lo hi) = lo := BitVec.extractLsb'_append_eq_right
@[simp] theorem high32_join64 (lo hi : Word) : high32 (join64 lo hi) = hi := BitVec.extractLsb'_append_eq_left
@[simp] theorem join64_low32_high32 (x : BitVec 64) : join64 (low32 x) (high32 x) = x :=
  (BitVec.extractLsb'_append_extractLsb'_eq_extractLsb' rfl).trans BitVec.extractLsb'_eq_self

end Sys2Proof
end

section
/-! The checks of 30_encoding R86 as three conditions on a command word, and the decoder by them. -/

namespace Sys2Proof

/-- No command has this `OP`. -/
abbrev ReservedOpcode (cw : Word) : Prop := opField cw = 0x0 ∨ 0x8 ≤ opField cw

/-- A field that `OP` leaves unused is not zero. -/
abbrev NonZeroReserved (cw : Word) : Prop :=
  (z1Field cw ≠ 0 ∨ z0Field cw ≠ 0) ∨ (opField cw ≠ 0x2 ∧ polField cw ≠ 0) ∨
    ((opField cw = 0x1 ∨ opField cw = 0x6 ∨ opField cw = 0x7) ∧ chField cw ≠ 0) ∨
    (¬ (opField cw = 0x6 ∨ opField cw = 0x7) ∧ offField cw ≠ 0)

/-- A raw access at an offset where no register lies. -/
abbrev BadOffset (cw : Word) : Prop :=
  (opField cw = 0x6 ∨ opField cw = 0x7) ∧ validOffset (offField cw) = false

/-- The order of the checks. -/
theorem checkWord_eq (cw : Word) : checkWord cw =
    if ReservedOpcode cw then some .reservedOpcode
    else if NonZeroReserved cw then some .nonZeroReserved
    else if BadOffset cw then some .badOffset
    else none := by
  simp only [checkWord, ite_or]

theorem checkWord_eq_none_iff (cw : Word) :
    checkWord cw = none ↔ ¬ ReservedOpcode cw ∧ ¬ NonZeroReserved cw ∧ ¬ BadOffset cw := by
  rw [checkWord_eq]
  split_ifs with hop hz hoff
  · exact ⟨nofun, fun h => absurd hop h.1⟩
  · exact ⟨nofun, fun h => absurd hz h.2.1⟩
  · exact ⟨nofun, fun h => absurd hoff h.2.2⟩
  · exact ⟨fun _ => ⟨hop, hz, hoff⟩, fun _ => rfl⟩


theorem decode_of_checkWord_some {cw : Word} {r : IllegalReason} (ops : List Word) (h : checkWord cw = some r) :
    decode (cw :: ops) = .error r := by
  simp only [decode, h]

theorem decode_of_checkWord_none {cw : Word} (ops : List Word) (h : checkWord cw = none) :
    decode (cw :: ops) = buildInstr cw ops := by
  simp only [decode, h]

/-- Only a word that passes the checks decodes. -/
theorem decode_eq_ok {ws : List Word} {i : Instr} (h : decode ws = .ok i) :
    ∃ cw ops, ws = cw :: ops ∧ checkWord cw = none ∧ buildInstr cw ops = .ok i := by
  obtain _ | ⟨cw, ops⟩ := ws
  · cases h
  · cases hc : checkWord cw with
    | some r => rw [decode_of_checkWord_some ops hc] at h; cases h
    | none => exact ⟨cw, ops, rfl, hc, decode_of_checkWord_none ops hc ▸ h⟩

/-- The fields `OP` leaves unused are zero in a word that passes the checks. -/
theorem unused_fields_eq_zero {cw : Word} (h : checkWord cw = none) :
    z1Field cw = 0 ∧ z0Field cw = 0 ∧ (opField cw ≠ 0x2 → polField cw = 0) ∧
      (opField cw = 0x1 ∨ opField cw = 0x6 ∨ opField cw = 0x7 → chField cw = 0) ∧
      (¬ (opField cw = 0x6 ∨ opField cw = 0x7) → offField cw = 0) := by
  obtain ⟨-, hz, -⟩ := (checkWord_eq_none_iff cw).mp h
  tauto

end Sys2Proof
end

section
/-! The encoder and the decoder are inverse to each other (30_encoding R84 to R88). -/

namespace Sys2Proof

theorem validOffset_iff (off : BitVec 8) : validOffset off = true ↔ off = 0x00 ∨ off = 0x04 ∨ off = 0x08 := by
  simp [validOffset, or_assoc]

/-- A word with no bit in `Z0` and `Z1`, from the values its other fields have. -/
theorem commandWord_of_fields {cw : Word} (hz1 : z1Field cw = 0) (hz0 : z0Field cw = 0) (op : BitVec 4)
    {ch pol : BitVec 1} {off : BitVec 8} (hop : opField cw = op) (hch : chField cw = ch) (hpol : polField cw = pol)
    (hoff : offField cw = off) : commandWord (op.setWidth 32) ch pol off = cw := by
  subst hop hch hpol hoff
  exact commandWord_fields hz1 hz0

/-- What is built from a checked word is encoded as that word and its operands: by opcode 0 to 7 and above, and by the
number of operand words. -/
theorem encode_of_buildInstr {cw : Word} {ops : List Word} {i : Instr} (hc : checkWord cw = none)
    (h : buildInstr cw ops = .ok i) : encode i = cw :: ops := by
  obtain ⟨hz1, hz0, hpol, hch, hoff⟩ := unused_fields_eq_zero hc
  have hword := @commandWord_of_fields cw hz1 hz0
  have hchan := (Channel.bit_ofBit (chField cw)).symm
  have hsign := (Polarity.bit_ofBit (polField cw)).symm
  delta buildInstr at h
  dsimp only at h
  generalize hn : (opField cw).toNat = n at h
  have hop (op : BitVec 4) (hk : n = op.toNat) : opField cw = op := BitVec.eq_of_toNat_eq (hn.trans hk)
  obtain _ | _ | _ | _ | _ | _ | _ | _ | n := n
  · cases h
  · cases ops <;> cases h
    rw [hop 1 rfl] at hpol hch hoff
    exact congrArg (· :: _) (hword 1 (hop 1 rfl) (hch (by decide)) (hpol (by decide)) (hoff (by decide)))
  · cases ops <;> cases h
    rw [hop 2 rfl] at hoff
    exact congrArg (· :: _) (hword 2 (hop 2 rfl) hchan hsign (hoff (by decide)))
  · obtain _ | ⟨p0, _ | ⟨p1, _ | ⟨d0, _ | ⟨d1, _ | _⟩⟩⟩⟩ := ops <;> cases h
    rw [hop 3 rfl] at hpol hoff
    rw [encode, low32_join64, high32_join64, low32_join64, high32_join64]
    exact congrArg (· :: _) (hword 3 (hop 3 rfl) hchan (hpol (by decide)) (hoff (by decide)))
  · cases ops <;> cases h
    rw [hop 4 rfl] at hpol hoff
    exact congrArg (· :: _) (hword 4 (hop 4 rfl) hchan (hpol (by decide)) (hoff (by decide)))
  · cases ops <;> cases h
    rw [hop 5 rfl] at hpol hoff
    exact congrArg (· :: _) (hword 5 (hop 5 rfl) hchan (hpol (by decide)) (hoff (by decide)))
  · cases ops <;> cases h
    rw [hop 6 rfl] at hpol hch
    exact congrArg (· :: _) (hword 6 (hop 6 rfl) (hch (by decide)) (hpol (by decide)) rfl)
  · obtain _ | ⟨d, _ | _⟩ := ops <;> cases h
    rw [hop 7 rfl] at hpol hch
    exact congrArg (· :: _) (hword 7 (hop 7 rfl) (hch (by decide)) (hpol (by decide)) rfl)
  · cases h

theorem encode_of_decode {ws : List Word} {i : Instr} (h : decode ws = .ok i) : encode i = ws := by
  obtain ⟨cw, ops, rfl, hc, hi⟩ := decode_eq_ok h
  exact encode_of_buildInstr hc hi

/-- The command word of a well-formed command has finitely many values; the operand words come through `join64`. -/
theorem decode_encode {i : Instr} (hwf : i.wf = true) : decode (encode i) = .ok i := by
  cases i with
  | init => rfl
  | setpol ch pol => cases ch <;> cases pol <;> rfl
  | config ch p d =>
    have hjoin : decode (encode (.config ch p d)) =
        .ok (.config ch (join64 (low32 p) (high32 p)) (join64 (low32 d) (high32 d))) := by cases ch <;> rfl
    rw [hjoin, join64_low32_high32, join64_low32_high32]
  | enable ch => cases ch <;> rfl
  | disable ch => cases ch <;> rfl
  | rdreg off => rcases (validOffset_iff off).mp hwf with rfl | rfl | rfl <;> rfl
  | wrreg off data => rcases (validOffset_iff off).mp hwf with rfl | rfl | rfl <;> rfl

/-- The two directions in one: a command's words are those of its encoding and no other. -/
theorem decode_eq_ok_iff (ws : List Word) (i : Instr) : decode ws = .ok i ↔ i.wf = true ∧ encode i = ws :=
  ⟨fun h => ⟨decode_wf h, encode_of_decode h⟩, fun ⟨hwf, hws⟩ => hws ▸ decode_encode hwf⟩

/-- Settles O1: by the kinds of commands. -/
theorem decodeOfEncodeIsIdentity : Obligations.DecodeOfEncodeIsIdentity := fun _ hwf => decode_encode hwf

/-- Settles O2: the fields of the word that `OP` leaves unused are zero, and the others are in the command. -/
theorem decodedWordsAreTheEncoding : Obligations.DecodedWordsAreTheEncoding := fun _ _ h =>
  ⟨decode_wf h, encode_of_decode h⟩

end Sys2Proof
end

section
/-! Which command words are refused, for which reason and in which order (30_encoding R86, R88), in digits of the
number the command word is. -/

namespace Sys2Proof

theorem reservedOpcode_iff (cw : Word) : ReservedOpcode cw ↔ cw.toNat % 16 = 0 ∨ 8 ≤ cw.toNat % 16 := by
  rw [ReservedOpcode, ← BitVec.toNat_inj, BitVec.le_def, opField_toNat]
  rfl

theorem nonZeroReserved_iff (cw : Word) : NonZeroReserved cw ↔
    cw.toNat / 65536 ≠ 0 ∨ cw.toNat / 64 % 4 ≠ 0 ∨ (cw.toNat % 16 ≠ 2 ∧ cw.toNat / 32 % 2 ≠ 0) ∨
      ((cw.toNat % 16 = 1 ∨ cw.toNat % 16 = 6 ∨ cw.toNat % 16 = 7) ∧ cw.toNat / 16 % 2 ≠ 0) ∨
      (cw.toNat % 16 ≠ 6 ∧ cw.toNat % 16 ≠ 7 ∧ cw.toNat / 256 % 256 ≠ 0) := by
  simp only [NonZeroReserved, ne_eq, ← BitVec.toNat_inj, opField_toNat, chField_toNat, polField_toNat, z0Field_toNat,
    offField_toNat, z1Field_toNat, or_assoc, not_or, and_assoc]
  rfl

theorem badOffset_iff (cw : Word) : BadOffset cw ↔ (cw.toNat % 16 = 6 ∨ cw.toNat % 16 = 7) ∧
    cw.toNat / 256 % 256 ≠ 0 ∧ cw.toNat / 256 % 256 ≠ 4 ∧ cw.toNat / 256 % 256 ≠ 8 := by
  simp only [BadOffset, ← Bool.not_eq_true, validOffset_iff, ne_eq, ← BitVec.toNat_inj, opField_toNat, offField_toNat,
    not_or]
  rfl

theorem wordCount_of_opField {cw : Word} {n : Nat} (hn : (opField cw).toNat = n) :
    wordCount cw = if n = 3 then 5 else if n = 7 then 2 else 1 := by
  subst hn
  simp only [wordCount, ← BitVec.toNat_inj]
  rfl

/-- With as many operand words as its opcode fixes a command word is a command, and with any other number it is refused:
by opcode 1 to 7, and by the number of operand words. -/
theorem buildInstr_outcome {cw : Word} (hop : ¬ ReservedOpcode cw) (ops : List Word) :
    (ops.length + 1 = wordCount cw ∧ ∃ i, buildInstr cw ops = .ok i) ∨
      (ops.length + 1 ≠ wordCount cw ∧ buildInstr cw ops = .error .operandCount) := by
  rw [reservedOpcode_iff, ← opField_toNat] at hop
  delta buildInstr
  dsimp only
  generalize hn : (opField cw).toNat = n at hop
  rw [wordCount_of_opField hn]
  obtain ⟨h0, h8⟩ : n ≠ 0 ∧ n < 8 := by omega
  obtain _ | _ | _ | _ | _ | _ | _ | _ | n := n
  · exact absurd rfl h0
  · cases ops with
    | nil => exact .inl ⟨rfl, _, rfl⟩
    | cons d ops => exact .inr ⟨nofun, rfl⟩
  · cases ops with
    | nil => exact .inl ⟨rfl, _, rfl⟩
    | cons d ops => exact .inr ⟨nofun, rfl⟩
  · obtain _ | ⟨p0, _ | ⟨p1, _ | ⟨d0, _ | ⟨d1, _ | ⟨x, ops⟩⟩⟩⟩⟩ := ops
    · exact .inr ⟨nofun, rfl⟩
    · exact .inr ⟨nofun, rfl⟩
    · exact .inr ⟨nofun, rfl⟩
    · exact .inr ⟨nofun, rfl⟩
    · exact .inl ⟨rfl, _, rfl⟩
    · exact .inr ⟨nofun, rfl⟩
  · cases ops with
    | nil => exact .inl ⟨rfl, _, rfl⟩
    | cons d ops => exact .inr ⟨nofun, rfl⟩
  · cases ops with
    | nil => exact .inl ⟨rfl, _, rfl⟩
    | cons d ops => exact .inr ⟨nofun, rfl⟩
  · cases ops with
    | nil => exact .inl ⟨rfl, _, rfl⟩
    | cons d ops => exact .inr ⟨nofun, rfl⟩
  · obtain _ | ⟨d, _ | ⟨x, ops⟩⟩ := ops
    · exact .inr ⟨nofun, rfl⟩
    · exact .inl ⟨rfl, _, rfl⟩
    · exact .inr ⟨nofun, rfl⟩
  · omega

/-- Settles O3: the checks in their order, each read off the number the word is. -/
theorem decodeRefusesInOrder : Obligations.DecodeRefusesInOrder := by
  intro cw ops n op reserved badOff
  have hcheck := checkWord_eq cw
  simp only [reservedOpcode_iff, nonZeroReserved_iff, badOffset_iff] at hcheck
  have hpass (h1 : 1 ≤ op) (h7 : op ≤ 7) (hz : ¬ reserved) (hoff : ¬ badOff) :
      (ops.length + 1 = wordCount cw ∧ ∃ i, decode (cw :: ops) = .ok i) ∨
        (ops.length + 1 ≠ wordCount cw ∧ decode (cw :: ops) = .error .operandCount) := by
    have hc : checkWord cw = none := by rw [hcheck, if_neg (by omega), if_neg hz, if_neg hoff]
    rw [decode_of_checkWord_none ops hc]
    exact buildInstr_outcome ((checkWord_eq_none_iff cw).mp hc).1 ops
  refine ⟨fun hop => ?_, fun h1 h7 hz => ?_, fun h1 h7 hz hoff => ?_, fun h1 h7 hz hoff hlen => ?_,
    fun h1 h7 hz hoff hlen => ?_⟩
  · exact decode_of_checkWord_some ops (by rw [hcheck, if_pos hop])
  · exact decode_of_checkWord_some ops (by rw [hcheck, if_neg (by omega), if_pos hz])
  · exact decode_of_checkWord_some ops (by rw [hcheck, if_neg (by omega), if_neg hz, if_pos hoff])
  · obtain ⟨-, hi⟩ := (hpass h1 h7 hz hoff).resolve_right fun h => h.1 hlen
    exact hi
  · obtain ⟨-, hi⟩ := (hpass h1 h7 hz hoff).resolve_left fun h => hlen h.1
    exact hi

end Sys2Proof
end

section
/-! The match and mask of each opcode (30_encoding R87): a masked comparison fixes the fields the mask covers, and the
fields it leaves out are the operands. -/

namespace Sys2Proof

/-- A field that lies inside the mask has the value it has in the match. -/
theorem field_of_and {cw mask c : Word} (h : cw &&& mask = c) {start len : Nat}
    (hm : mask.extractLsb' start len = BitVec.allOnes len) : cw.extractLsb' start len = c.extractLsb' start len := by
  rw [← h, BitVec.extractLsb'_and, hm, BitVec.and_allOnes]

/-- The match of an opcode has no bit outside `OP`. -/
theorem fields_of_opcode (op : BitVec 4) : opField (op.setWidth 32) = op ∧ chField (op.setWidth 32) = 0 ∧
    polField (op.setWidth 32) = 0 ∧ z0Field (op.setWidth 32) = 0 ∧ offField (op.setWidth 32) = 0 ∧
    z1Field (op.setWidth 32) = 0 := by
  revert op
  decide

theorem init_word_iff (cw : Word) : commandWord 0x1 0 0 0 = cw ↔ cw &&& 0xFFFFFFFF = 0x00000001 := by
  constructor
  · rintro rfl
    rfl
  · intro h
    exact commandWord_of_fields (field_of_and h rfl) (field_of_and h rfl) 1 (field_of_and h rfl) (field_of_and h rfl)
      (field_of_and h rfl) (field_of_and h rfl)

theorem setpol_word_iff (cw : Word) :
    (∃ (ch : Channel) (pol : Polarity), commandWord 0x2 ch.bit pol.bit 0 = cw) ↔ cw &&& 0xFFFFFFCF = 0x00000002 := by
  constructor
  · rintro ⟨ch, pol, rfl⟩
    cases ch <;> cases pol <;> rfl
  · intro h
    exact ⟨.ofBit (chField cw), .ofBit (polField cw), commandWord_of_fields (field_of_and h rfl) (field_of_and h rfl) 2
      (field_of_and h rfl) (Channel.bit_ofBit _).symm (Polarity.bit_ofBit _).symm (field_of_and h rfl)⟩

/-- CONFIG, ENABLE and DISABLE: the channel alone is left out. -/
theorem channel_word_iff (op : BitVec 4) (cw : Word) :
    (∃ ch : Channel, commandWord (op.setWidth 32) ch.bit 0 0 = cw) ↔ cw &&& 0xFFFFFFEF = op.setWidth 32 := by
  constructor
  · rintro ⟨ch, rfl⟩
    revert op
    cases ch <;> decide
  · intro h
    obtain ⟨hop, -, hpol, hz0, hoff, hz1⟩ := fields_of_opcode op
    exact ⟨.ofBit (chField cw), commandWord_of_fields ((field_of_and h rfl).trans hz1) ((field_of_and h rfl).trans hz0) op
      ((field_of_and h rfl).trans hop) (Channel.bit_ofBit _).symm ((field_of_and h rfl).trans hpol)
      ((field_of_and h rfl).trans hoff)⟩

theorem validOffset_offField_iff (cw : Word) : validOffset (offField cw) = true ↔
    cw.toNat / 256 % 256 = 0x00 ∨ cw.toNat / 256 % 256 = 0x04 ∨ cw.toNat / 256 % 256 = 0x08 := by
  simp only [validOffset_iff, ← BitVec.toNat_inj, offField_toNat]
  rfl

theorem offField_commandWord (op : BitVec 4) (ch pol : BitVec 1) (off : BitVec 8) :
    offField (commandWord (op.setWidth 32) ch pol off) = off := by
  apply BitVec.eq_of_toNat_eq
  rw [offField_toNat, commandWord_toNat]
  omega

/-- RDREG and WRREG: the offset alone is left out, and it must be a register's. -/
theorem offset_word_iff (op : BitVec 4) (cw : Word) :
    (∃ off, validOffset off = true ∧ commandWord (op.setWidth 32) 0 0 off = cw) ↔
      cw &&& 0xFFFF00FF = op.setWidth 32 ∧ (cw.toNat / 256 % 256 = 0x00 ∨ cw.toNat / 256 % 256 = 0x04 ∨
        cw.toNat / 256 % 256 = 0x08) := by
  rw [← validOffset_offField_iff]
  constructor
  · rintro ⟨off, hoff, rfl⟩
    rw [offField_commandWord]
    refine ⟨?_, hoff⟩
    revert op
    rcases (validOffset_iff off).mp hoff with rfl | rfl | rfl <;> decide
  · rintro ⟨h, hoff⟩
    obtain ⟨hop, hch, hpol, hz0, -, hz1⟩ := fields_of_opcode op
    exact ⟨offField cw, hoff, commandWord_of_fields ((field_of_and h rfl).trans hz1) ((field_of_and h rfl).trans hz0) op
      ((field_of_and h rfl).trans hop) ((field_of_and h rfl).trans hch) ((field_of_and h rfl).trans hpol) rfl⟩

/-- Settles O4: a list of words decodes to a command exactly when it is the command's encoding. -/
theorem matchAndMaskPerOpcode : Obligations.MatchAndMaskPerOpcode := by
  intro cw
  simp only [decode_eq_ok_iff, Instr.wf, encode, List.cons.injEq, and_true, true_and]
  refine ⟨init_word_iff cw, setpol_word_iff cw, fun p0 p1 d0 d1 => ?_, channel_word_iff 4 cw, channel_word_iff 5 cw,
    offset_word_iff 6 cw, fun d => ?_⟩
  · refine Iff.trans ⟨?_, ?_⟩ (channel_word_iff 3 cw)
    · rintro ⟨ch, p, d, hword, -⟩
      exact ⟨ch, hword⟩
    · rintro ⟨ch, hword⟩
      exact ⟨ch, join64 p0 p1, join64 d0 d1, hword, low32_join64 p0 p1, high32_join64 p0 p1, low32_join64 d0 d1,
        high32_join64 d0 d1⟩
  · refine Iff.trans ⟨?_, ?_⟩ (offset_word_iff 7 cw)
    · rintro ⟨off, data, hoff, hword, -⟩
      exact ⟨off, hoff, hword⟩
    · rintro ⟨off, hoff, hword⟩
      exact ⟨off, d, hoff, hword, rfl⟩

/-- Settles O5: each example is the encoding of its command, so it decodes to it. -/
theorem encodingExamplesDecode : Obligations.EncodingExamplesDecode := by
  unfold Obligations.EncodingExamplesDecode
  simp only [decode_eq_ok_iff]
  decide

end Sys2Proof
end

section
/-! Insertion into the fields of CTRL and their ranges (30_encoding R71 to R74). -/

namespace Sys2Proof.Machine

theorem withBit_getLsbD (v m : Word) (b : Bool) (k : Nat) :
    (withBit v m b).getLsbD k = if m.getLsbD k then b else v.getLsbD k := by
  cases hm : m.getLsbD k with
  | false => exact agreeOutside_withBit m b v k hm
  | true => cases b <;> simp [withBit, hm]

theorem withBit_and_mask (v m : Word) (b : Bool) : withBit v m b &&& m = if b then m else 0 := by
  refine word_ext fun k _ => ?_
  rw [BitVec.getLsbD_and, withBit_getLsbD]
  cases b <;> cases hm : m.getLsbD k <;> simp [hm]

theorem presc_not_prescMask (ch : Channel) : presc (~~~ prescMask ch) ch = 0#4 := by cases ch <;> decide

theorem presc_withPresc (v : Word) (ch : Channel) (i : BitVec 4) : presc (withPresc v ch i) ch = i := by
  rw [withPresc, presc_or, presc_and, presc_not_prescMask, BitVec.and_zero, BitVec.zero_or, presc_prescAt]

theorem agreeOutside_withPresc (v : Word) (ch : Channel) (i : BitVec 4) :
    AgreeOutside (prescMask ch) (withPresc v ch i) v :=
  (agreeOutside_or _ (prescAt_subset ch i)).trans (agreeOutside_and_not v)

/-- Settles O6: each bit of the result is the inserted one inside the mask and the old one outside it. -/
theorem fieldInsertionChangesOnlyItsMask : Obligations.FieldInsertionChangesOnlyItsMask := by
  intro v ch i b
  refine ⟨presc_withPresc v ch i, (agreeOutside_withPresc v ch i).xor_and_not, ?_, ?_, ?_, fun m =>
    ⟨withBit_and_mask v m b, (agreeOutside_withBit m b v).xor_and_not⟩⟩
  · rw [en_eq, withBit_getLsbD, enBit_getLsbD, decide_eq_true rfl, if_pos rfl]
  · rw [act_eq, withBit_getLsbD, actBit_getLsbD, decide_eq_true rfl, if_pos rfl]
  · rw [gate_eq, withBit_getLsbD, gateBit_getLsbD, decide_eq_true rfl, if_pos rfl]

/-- Settles O7: the bits of a channel's mask are known, and the rest is about four fixed masks per channel. -/
theorem channelFieldsDoNotOverlap : Obligations.ChannelFieldsDoNotOverlap := by
  refine ⟨fun ch => by cases ch <;> decide, fun ch k => ?_, by decide, by decide, by decide⟩
  exact (chMask_getLsbD ch k).trans (congrArg (_ && ·) (decide_eq_decide.mpr Nat.lt_succ_iff))

end Sys2Proof.Machine
end

section
/-! PERIOD words (30_encoding R75 to R78): a word is its two halves, so packing and unpacking are inverse. -/

namespace Sys2Proof.Machine

/-- Bits 15:0 of a packed PERIOD word (30_encoding R76). -/
theorem duty_pack (t d : Nat) : duty (pack t d) = BitVec.ofNat 16 d := by
  refine BitVec.eq_of_getLsbD_eq fun k hk => ?_
  have hmask : (0xFFFF : Word).getLsbD k = true := by
    rw [show (0xFFFF : Word) = BitVec.ofNat 32 (2 ^ 16 - 1) from rfl, ones_getLsbD 16 _ (by decide), decide_eq_true hk]
  rw [duty, pack, BitVec.getLsbD_extractLsb', Nat.zero_add, BitVec.getLsbD_or, BitVec.getLsbD_and, shl_getLsbD, hmask]
  have hk32 : k < 32 := by omega
  simp only [BitVec.getLsbD_ofNat, hk, hk32]
  simp

theorem prdM1_append_duty (w : Word) : prdM1 w ++ duty w = w :=
  (BitVec.extractLsb'_append_extractLsb'_eq_extractLsb' rfl).trans BitVec.extractLsb'_eq_self

theorem unpack_pack {t d : Nat} (hpos : 1 ≤ t) (ht : t ≤ 65536) (hd : d ≤ 65535) : unpack (pack t d) = (t, d) := by
  rw [unpack, prdM1_pack, duty_pack, BitVec.toNat_ofNat, BitVec.toNat_ofNat, Nat.mod_eq_of_lt (by omega),
    Nat.mod_eq_of_lt (by omega), Nat.sub_add_cancel hpos]

theorem pack_unpack (w : Word) : pack (unpack w).1 (unpack w).2 = w := by
  rw [← prdM1_append_duty (pack _ _), prdM1_pack, duty_pack, unpack, Nat.add_sub_cancel, BitVec.ofNat_toNat,
    BitVec.ofNat_toNat, BitVec.setWidth_eq, BitVec.setWidth_eq, prdM1_append_duty]

/-- Settles O8: the halves of a packed word are the two numbers, and a word is its two halves. -/
theorem packUnpackRoundTrip : Obligations.PackUnpackRoundTrip :=
  ⟨fun _ _ hpos ht hd => unpack_pack hpos ht hd, pack_unpack⟩

end Sys2Proof.Machine
end

section
/-! The step that takes a delivered command of an idle context (20_memory R61, 30_encoding R86). -/

namespace Sys2Proof.Machine

theorem step_command_ok {s : State} {h : Nat} {ws : List Word} {rest : List Event} {i : Instr}
    (hin : s.input = .command h ws :: rest) (hh : h ∈ s.params.hosts) (hidle : (s.host h).ctl = .idle)
    (hdec : decode ws = .ok i) : step s = exec i (s.take h rest) := by
  rw [step_knownHost s _ rest hin hh]
  simp only [State.runEvent, hidle, hdec]

/-- Settles O39: the event belongs to a context of HOSTS that is idle, and its words decode. -/
theorem stepRunsDecodedCommand : Obligations.StepRunsDecodedCommand := fun _ _ _ _ _ hin hh hidle hdec =>
  step_command_ok hin hh hidle hdec

theorem decodeTableWord_eq_some {nbits w : Nat} {i : Instr} (h : decodeTableWord nbits w = some i) :
    decode (tableWords nbits w) = .ok i := by
  unfold decodeTableWord at h
  split at h
  · next hdec => rw [hdec, Option.some.inj h]
  · cases h

/-- For an idle context the delivery is laid in front of the input and nothing else changes. -/
theorem State.withFetchWord_of_idle {s : State} (hidle : (s.host s.cur).ctl = .idle) (nbits w : Nat) :
    s.withFetchWord nbits w = s.dropEvent (.command s.cur (tableWords nbits w) :: s.input) := by
  simp [State.withFetchWord, hidle, Ctl.isIdle, State.dropEvent]

/-- Settles O40: the step takes the delivery away again, and the rest is the state before. -/
theorem fetchedWordRunsNext : Obligations.FetchedWordRunsNext := by
  intro s nbits w i hidle hh hdec
  rw [State.withFetchWord_of_idle hidle]
  exact step_command_ok rfl hh hidle (decodeTableWord_eq_some hdec)

/-- Whichever way it is delivered, the reason is recorded. -/
theorem runEvent_of_decode_error {s : State} {h : Nat} {ws : List Word} {r : IllegalReason} (rest : List Event)
    (hidle : (s.host h).ctl = .idle) (hdec : decode ws = .error r) :
    s.runEvent (.command h ws) rest = .next ((s.take h rest).refuseDecode r) ∧
      s.runEvent (.issue h ws) rest = .next ((s.take h rest).refuseDecode r) := by
  simp [State.runEvent, hidle, hdec]

/-- Settles O41: taking the event and recording the reason is all the step does. -/
theorem undecodableCommandIsMarked : Obligations.UndecodableCommandIsMarked := by
  intro s h ws rest r hin hh hidle hdec
  obtain ⟨hcommand, hissue⟩ := runEvent_of_decode_error rest hidle hdec
  rcases hin with hin | hin
  · exact (step_knownHost s _ rest hin hh).trans hcommand
  · exact (step_knownHost s _ rest hin hh).trans hissue

end Sys2Proof.Machine
end

section
/-! INIT (40_initialize R100 to R104): its accessor calls, and then one new record of its context. The calls change the
accessor's answers and the draws alone, and what they answer depends on no register (R101). -/

namespace Sys2Proof.Machine

variable {s : State}

/-! ## The next state for each pair of answers -/

theorem exec_init_openFails {e : SysErr} (hidle : (s.host s.cur).ctl = .idle) (hopen : s.accessorOpen.1 = .err e) :
    exec .init s = .next (s.accessorOpen.2.raise s.cur (.accessDenied e)) := by
  rw [exec_eq_runCommand, runCommand_idle _ _ _ _ hidle]
  simp [lineCount, line, lineInit, hopen, State.raise_eq]

theorem exec_init_mapFails {e : SysErr} (hidle : (s.host s.cur).ctl = .idle) (hopen : s.accessorOpen.1 = .ok)
    (hmap : s.accessorOpen.2.accessorMap.1 = .err e) :
    exec .init s = .next (s.accessorOpen.2.accessorMap.2.raise s.cur (.mappingFailed e)) := by
  rw [exec_eq_runCommand, runCommand_idle _ _ _ _ hidle]
  simp [lineCount, line, lineInit, hopen, hmap, State.raise_eq]

/-! ## The calls and the record as two parts of one next state -/

/-- The state after the accessor calls INIT makes: `map` is called only when `open` succeeds (40_initialize R100). -/
def State.afterInitCalls (s : State) : State :=
  match s.accessorOpen.1 with
  | .err _ => s.accessorOpen.2
  | .ok => s.accessorOpen.2.accessorMap.2

/-- The record of a context whose command ends with the status `e` and no word. -/
def HostCtx.respondWith (c : HostCtx) (e : Status) : HostCtx :=
  { c with ctl := .idle, responses := { status := e, data := none } :: c.responses }

theorem State.raise_eq_setHost (s : State) (h : Nat) (e : Status) :
    s.raise h e = s.setHost h ((s.host h).respondWith e) := rfl

theorem State.setHandle_complete (s : State) (h : Nat) (a : Addr) :
    (s.setHandle h a).complete h none = s.setHost h (HostCtx.respondWith { s.host h with handle := some a } .ok) := by
  simp [State.complete_eq, State.finish_eq, State.setHandle_eq, HostCtx.respondWith]

/-- The record of the context `cur` when its INIT has ended (40_initialize R102, R103). -/
def State.initRecord (s : State) : HostCtx :=
  match s.accessorOpen.1 with
  | .err e => (s.host s.cur).respondWith (.accessDenied e)
  | .ok =>
    match s.accessorOpen.2.accessorMap.1 with
    | .err e => (s.host s.cur).respondWith (.mappingFailed e)
    | .ok page =>
      let handle := effBase (mappedAddr s.params.pageSize page) (mapOffset s.params.pageSize)
      HostCtx.respondWith { s.host s.cur with handle := some handle } .ok

/-- INIT, whatever the accessor answers. -/
theorem exec_init (hidle : (s.host s.cur).ctl = .idle) :
    exec .init s = .next (s.afterInitCalls.setHost s.cur s.initRecord) := by
  cases hopen : s.accessorOpen.1 with
  | err e =>
    rw [exec_init_openFails hidle hopen]
    simp [State.afterInitCalls, State.initRecord, hopen, State.raise_eq_setHost]
  | ok =>
    cases hmap : s.accessorOpen.2.accessorMap.1 with
    | err e =>
      rw [exec_init_mapFails hidle hopen hmap]
      simp [State.afterInitCalls, State.initRecord, hopen, hmap, State.raise_eq_setHost]
    | ok page =>
      rw [exec_init_mapped hidle hopen hmap]
      simp [State.afterInitCalls, State.initRecord, hopen, hmap, State.setHandle_complete]

/-! ## The frame of the calls -/

theorem State.accessorOpen_frame (s : State) :
    s.accessorOpen.2 = { s with openAnswers := s.accessorOpen.2.openAnswers, draws := s.accessorOpen.2.draws } := by
  unfold State.accessorOpen
  split <;> rfl

theorem State.accessorMap_frame (s : State) :
    s.accessorMap.2 = { s with mapAnswers := s.accessorMap.2.mapAnswers, draws := s.accessorMap.2.draws } := by
  unfold State.accessorMap
  split <;> rfl

/-- The calls change nothing but the answers still to come and the draws. -/
theorem State.afterInitCalls_frame (s : State) :
    s.afterInitCalls = { s with
      openAnswers := s.afterInitCalls.openAnswers
      mapAnswers := s.afterInitCalls.mapAnswers
      draws := s.afterInitCalls.draws } := by
  unfold State.afterInitCalls
  split
  · rw [s.accessorOpen_frame]
  · rw [s.accessorOpen.2.accessorMap_frame, s.accessorOpen_frame]

/-! ## No register is read -/

/-- The state with other values in the three registers. -/
def State.withRegs (s : State) (c p0 p1 : Word) : State := { s with ctrl := c, period0 := p0, period1 := p1 }

theorem State.withRegs_accessorOpen (s : State) (c p0 p1 : Word) :
    (s.withRegs c p0 p1).accessorOpen = (s.accessorOpen.1, s.accessorOpen.2.withRegs c p0 p1) := by
  cases e : s.openAnswers <;> simp [State.accessorOpen, State.withRegs, e]

theorem State.withRegs_accessorMap (s : State) (c p0 p1 : Word) :
    (s.withRegs c p0 p1).accessorMap = (s.accessorMap.1, s.accessorMap.2.withRegs c p0 p1) := by
  cases e : s.mapAnswers <;> simp [State.accessorMap, State.withRegs, e]

theorem State.withRegs_afterInitCalls (s : State) (c p0 p1 : Word) :
    (s.withRegs c p0 p1).afterInitCalls = s.afterInitCalls.withRegs c p0 p1 := by
  simp only [State.afterInitCalls, State.withRegs_accessorOpen, State.withRegs_accessorMap]
  split <;> rfl

theorem State.withRegs_initRecord (s : State) (c p0 p1 : Word) : (s.withRegs c p0 p1).initRecord = s.initRecord := by
  simp only [State.initRecord, State.withRegs_accessorOpen, State.withRegs_accessorMap]
  rfl

/-- With other values in the registers INIT does the same. -/
theorem exec_init_withRegs (hidle : (s.host s.cur).ctl = .idle) (c p0 p1 : Word) :
    exec .init (s.withRegs c p0 p1) = .next ((s.afterInitCalls.setHost s.cur s.initRecord).withRegs c p0 p1) := by
  rw [exec_init (s := s.withRegs c p0 p1) hidle, s.withRegs_afterInitCalls, s.withRegs_initRecord]
  rfl

/-! ## The two statements -/

/-- Settles O12: the calls change no context, and the record is the statement's one for each pair of answers. -/
theorem initSetsHandleOrReportsStep : Obligations.InitSetsHandleOrReportsStep := by
  intro s hidle
  have hhosts : s.afterInitCalls.hosts = s.hosts := (congrArg State.hosts s.afterInitCalls_frame :)
  rw [exec_init hidle, State.setHost, hhosts, State.afterInitCalls, State.initRecord]
  rcases s.accessorOpen with ⟨_ | _, s1⟩
  · dsimp only
    rcases s1.accessorMap with ⟨_ | _, s2⟩
    · rfl
    · rfl
  · rfl

/-- Settles O13: the frame of the accessor calls, and a record that depends on no register. -/
theorem initAccessesNoRegister : Obligations.InitAccessesNoRegister := by
  intro s hidle
  have hexec := exec_init hidle
  have hregs := sameRegs_exec_init hexec
  have hframe := s.afterInitCalls_frame
  refine ⟨_, hexec, hregs.ctrl, hregs.period0, hregs.period1, (congrArg State.refusals hframe :),
    (congrArg State.input hframe :), (congrArg State.params hframe :), (congrArg State.cur hframe :),
    fun a => State.physByte_congr fun r _ _ => hregs.reg r, fun k hk => ?_, ?_, exec_init_withRegs hidle⟩
  · rw [State.setHost_host_other _ _ hk, hframe]
    rfl
  · rw [State.setHost_draws, State.afterInitCalls]
    rcases s.accessorOpen with ⟨_ | e, s1⟩
    · rfl
    · rfl

end Sys2Proof.Machine
end

section
/-! SETPOL (41_polarity R110 to R112): one modification of CTRL and the response OK. -/

namespace Sys2Proof.Machine

open Sys2Proof.Claims

/-- A read changes nothing but the count of the draws (20_memory R60, 10_state R24). -/
theorem State.afterRead_frame (s : State) (r : Reg) : s.afterRead r = { s with draws := (s.afterRead r).draws } := by
  unfold State.afterRead
  split
  · split <;> rfl
  · rfl

/-- The next state of a command that modifies CTRL once and answers OK, field by field. -/
theorem State.modifyCtrl_complete (s : State) (f : Word → Word) : (s.modifyCtrl f).complete s.cur none = { s with
    ctrl := f (s.regValue .ctrl)
    draws := (s.afterRead .ctrl).draws
    hosts := responded s okResponse } := by
  rw [State.modifyCtrl, s.afterRead_frame .ctrl]
  rfl

theorem Polarity.act_eq_decide (pol : Polarity) : Polarity.act pol = decide (pol = .normal) := by cases pol <;> rfl

/-- Settles O14: SETPOL is one modification of CTRL, at the bit of `actBit` and with the sense of `Polarity.act`. -/
theorem setpolWritesActOnly : Obligations.SetpolWritesActOnly := by
  intro ch pol s hidle hh
  refine ⟨?_, State.regValue_ctrl_storage⟩
  rw [exec_setpol hidle hh, State.modifyCtrl_complete, Polarity.act_eq_decide, actBit, chShift]

end Sys2Proof.Machine
end

section
/-! The search of the TPE (42_encoder R120 to R126): the first accepted index, from the periods at which each index is
accepted, and the table of R129. -/

namespace Sys2Proof.Machine

/-! ## The least accepted index -/

/-- The TPE's answer is the result for the first accepted index (42_encoder R126). -/
theorem tpe_eq_some_iff {p d : Nat} {r : TpeResult} : tpe p d = some r ↔
    ∃ i ≤ searchLast, accepts i p = true ∧ (∀ j < i, accepts j p = false) ∧ tpeResult p d i = r := by
  simp only [tpe, Option.map_eq_some_iff, List.find?_range_eq_some, List.mem_range, Nat.lt_succ_iff,
    Bool.not_eq_true', and_assoc]
  exact exists_congr fun i => and_left_comm

/-- Every index the search visits fits the 4 bits of `PRESC` (00_scope R8). -/
theorem tpeResult_idx_toNat (p d : Nat) {i : Nat} (hi : i ≤ searchLast) : (tpeResult p d i).idx.toNat = i := by
  have hi' : i ≤ 14 := hi
  exact Nat.mod_eq_of_lt (by omega)

/-- A larger divisor counts no more ticks (42_encoder R123, R124). -/
theorem tickCount_anti_of_divisor_le {i j : Nat} (hj : divisor j ≠ 0) (hle : divisor j ≤ divisor i) (p : Nat) :
    tickCount i p ≤ tickCount j p :=
  Nat.div_le_div_right (Nat.mul_le_mul_right p (Nat.div_le_div_left hle (Nat.pos_of_ne_zero hj)))

/-- No divisor before a valid index is larger than its own (10_state R28). -/
theorem divisor_le_of_lt : ∀ i ≤ searchLast, divisor i ≠ 0 → ∀ j < i, divisor j ≤ divisor i := by decide

/-! ## The periods of each index -/

/-- The least and the greatest period with 1 to 65536 ticks at an index; no period at a sentinel. -/
def periodRange : Nat → Nat × Nat
  | 0 => (5000, 327684999)
  | 1 => (7501, 491528728)
  | 2 => (10000, 655369999)
  | 3 => (15001, 983064830)
  | 4 => (20000, 1310739999)
  | 8 => (500000, 32768499999)
  | 9 => (1000000, 65536999999)
  | 10 => (1501502, 98403903903)
  | 11 => (2000000, 131073999999)
  | 12 => (3003004, 196807807807)
  | _ => (5000, 0)

theorem accepts_iff_periodRange {i : Nat} (hi : i ≤ searchLast) (p : Nat) :
    accepts i p = true ↔ (periodRange i).1 ≤ p ∧ p ≤ (periodRange i).2 := by
  have hi' : i ≤ 14 := hi
  rw [accepts_iff, tickCount, dividedFreq, refClkHz, nsPerS]
  interval_cases i <;> simp [divisor, prescalerTable, periodRange] <;> omega

/-- The winning index of R129. -/
def winningIndex (p : Nat) : Option Nat :=
  if p ≤ 4999 then none
  else if p ≤ 327684999 then some 0
  else if p ≤ 491528728 then some 1
  else if p ≤ 655369999 then some 2
  else if p ≤ 983064830 then some 3
  else if p ≤ 1310739999 then some 4
  else if p ≤ 32768499999 then some 8
  else if p ≤ 65536999999 then some 9
  else if p ≤ 98403903903 then some 10
  else if p ≤ 131073999999 then some 11
  else if p ≤ 196807807807 then some 12
  else none

/-- From the period `lo` on, which is past the last period of every earlier index, up to its own last period, an index
is the first accepted one. -/
theorem find_accepts_eq_some {i lo p : Nat}
    (hwins : i ≤ searchLast ∧ (periodRange i).1 ≤ lo ∧ ∀ j < i, (periodRange j).2 < lo) (hp : lo ≤ p)
    (hhi : p ≤ (periodRange i).2) : (List.range (searchLast + 1)).find? (accepts · p) = some i := by
  obtain ⟨hi, hlo, hprev⟩ := hwins
  refine List.find?_range_eq_some.mpr
    ⟨(accepts_iff_periodRange hi p).mpr ⟨hlo.trans hp, hhi⟩, List.mem_range.mpr (Nat.lt_succ_of_le hi), fun j hj => ?_⟩
  rw [Bool.not_eq_true', ← Bool.not_eq_true, accepts_iff_periodRange (hj.le.trans hi)]
  exact fun h => absurd ((hprev j hj).trans_le hp) h.2.not_gt

/-- Outside the periods from 5000 ns to the last period of index 12 no index is accepted. -/
theorem find_accepts_eq_none {p : Nat} (hp : p < 5000 ∨ 196807807807 < p) :
    (List.range (searchLast + 1)).find? (accepts · p) = none := by
  have hbounds : ∀ i ≤ searchLast, 5000 ≤ (periodRange i).1 ∧ (periodRange i).2 ≤ 196807807807 := by decide
  refine List.find?_range_eq_none.mpr fun i hi => ?_
  have hi := Nat.lt_succ_iff.mp hi
  obtain ⟨hlo, hhi⟩ := hbounds i hi
  rw [Bool.not_eq_true', ← Bool.not_eq_true, accepts_iff_periodRange hi]
  omega

theorem find_accepts_eq_winningIndex (p : Nat) :
    (List.range (searchLast + 1)).find? (accepts · p) = winningIndex p := by
  unfold winningIndex
  split_ifs
  · exact find_accepts_eq_none (by omega)
  · exact find_accepts_eq_some (lo := 5000) (by decide) (by omega) ‹_›
  · exact find_accepts_eq_some (lo := 327685000) (by decide) (by omega) ‹_›
  · exact find_accepts_eq_some (lo := 491528729) (by decide) (by omega) ‹_›
  · exact find_accepts_eq_some (lo := 655370000) (by decide) (by omega) ‹_›
  · exact find_accepts_eq_some (lo := 983064831) (by decide) (by omega) ‹_›
  · exact find_accepts_eq_some (lo := 1310740000) (by decide) (by omega) ‹_›
  · exact find_accepts_eq_some (lo := 32768500000) (by decide) (by omega) ‹_›
  · exact find_accepts_eq_some (lo := 65537000000) (by decide) (by omega) ‹_›
  · exact find_accepts_eq_some (lo := 98403903904) (by decide) (by omega) ‹_›
  · exact find_accepts_eq_some (lo := 131074000000) (by decide) (by omega) ‹_›
  · exact find_accepts_eq_none (by omega)

theorem tpe_eq_map_winningIndex (p d : Nat) : tpe p d = (winningIndex p).map (tpeResult p d) := by
  rw [tpe, find_accepts_eq_winningIndex]

theorem winningIndex_le_searchLast {p i : Nat} (h : winningIndex p = some i) : i ≤ searchLast := by
  rw [← find_accepts_eq_winningIndex] at h
  exact Nat.lt_succ_iff.mp (List.mem_range.mp (List.mem_of_find?_eq_some h))

theorem winningIndex_eq_none_iff (p : Nat) : winningIndex p = none ↔ p < 5000 ∨ 196807807807 < p := by
  unfold winningIndex
  split_ifs <;> simp <;> omega

theorem tpe_idx (p d : Nat) : (tpe p d).map (fun r => r.idx.toNat) = winningIndex p := by
  rw [tpe_eq_map_winningIndex]
  cases hi : winningIndex p with
  | none => rfl
  | some i => exact congrArg some (tpeResult_idx_toNat p d (winningIndex_le_searchLast hi))

theorem tpe_periodTicks (p d : Nat) :
    (tpe p d).map (fun r => r.periodTicks) = (winningIndex p).map (tickCount · p) := by
  rw [tpe_eq_map_winningIndex, Option.map_map]
  rfl

/-- The divided clock has at most 200000 Hz, so below 5000 ns no index counts a tick (42_encoder R128). -/
theorem tickCount_eq_zero {p i : Nat} (hp : p ≤ 4999) (hi : i ≤ searchLast) : tickCount i p = 0 := by
  have hfreq : ∀ i ≤ searchLast, dividedFreq i ≤ 200000 := by decide
  have hmul : dividedFreq i * p ≤ 200000 * 4999 := Nat.mul_le_mul (hfreq i hi) hp
  exact Nat.div_eq_of_lt (hmul.trans_lt (by decide))

/-- Settles O9: the TPE's search ends at the index of the table, at every period. -/
theorem winningIndexByPeriodRange : Obligations.WinningIndexByPeriodRange := by
  refine ⟨rfl, fun p i hp hi => tickCount_eq_zero hp hi, fun p d _ _ => tpe_idx p d, fun d p t hpt => ?_⟩
  rw [tpe_periodTicks]
  refine (?_ : ∀ x ∈ _, (winningIndex x.1).map (tickCount · x.1) = some x.2) (p, t) hpt
  decide

/-- Settles O10: no earlier index fits, since the earlier divisors are smaller and count at least as many ticks. -/
theorem tpeReturnsSmallestIndexOrFails : Obligations.TpeReturnsSmallestIndexOrFails := by
  intro p d _
  refine ⟨by rw [tpe_eq_map_winningIndex, Option.map_eq_none_iff, winningIndex_eq_none_iff], fun r hr => ?_⟩
  obtain ⟨hvalid, hpos, hle, -⟩ := tpe_fields hr
  obtain ⟨i, hi, hacc, hfirst, rfl⟩ := tpe_eq_some_iff.mp hr
  have hdiv := ((accepts_iff i p).mp hacc).1
  rw [tpeResult_idx_toNat p d hi] at hvalid ⊢
  refine ⟨hvalid, rfl, hpos, hle, fun j hj hdj => ?_⟩
  have hticks : 1 ≤ tickCount j p := hpos.trans (tickCount_anti_of_divisor_le hdj (divisor_le_of_lt i hi hdiv j hj) p)
  have hnot := hfirst j hj
  rw [← Bool.not_eq_true, accepts_iff] at hnot
  exact not_le.mp fun hfit => hnot ⟨hdj, hticks, hfit⟩

end Sys2Proof.Machine
end

section
/-! The duty ticks of the TPE and the PERIOD word that stores them (42_encoder R130 to R133, 30_encoding R76). -/

namespace Sys2Proof.Machine

theorem tpe_dutyTicks_word {p d : Nat} {r : TpeResult} (hr : tpe p d = some r) :
    r.dutyTicks = r.periodTicks * d / p ∧ r.word = pack r.periodTicks r.dutyTicks := by
  obtain ⟨i, -, -, -, rfl⟩ := tpe_eq_some_iff.mp hr
  exact ⟨rfl, rfl⟩

/-- The stored duty is the duty ticks modulo 2^16 (42_encoder R132). -/
theorem tpe_duty {p d : Nat} {r : TpeResult} (hr : tpe p d = some r) : (duty r.word).toNat = r.dutyTicks % 65536 := by
  rw [(tpe_dutyTicks_word hr).2, duty_pack, BitVec.toNat_ofNat]

/-- A period the TPE accepts is at least 5000 ns (42_encoder R128). -/
theorem minPeriod_le_of_tpe {p d : Nat} {r : TpeResult} (hr : tpe p d = some r) : 5000 ≤ p := by
  refine not_lt.mp fun hp => ?_
  rw [tpe_eq_map_winningIndex, (winningIndex_eq_none_iff p).mpr (.inl hp)] at hr
  exact absurd hr nofun

/-- Settles O11: below the period the duty ticks are fewer than the period ticks, and at the period they are as many. -/
theorem dutyTicksAndStoredDuty : Obligations.DutyTicksAndStoredDuty := by
  intro p d r hr
  obtain ⟨-, hpos, hle, hprd⟩ := tpe_fields hr
  obtain ⟨hduty, hword⟩ := tpe_dutyTicks_word hr
  have hp : 0 < p := Nat.zero_lt_of_lt (minPeriod_le_of_tpe hr)
  have hfull : d = p → r.dutyTicks = r.periodTicks := by
    rintro rfl
    rw [hduty, Nat.mul_div_cancel _ hp]
  have hless : d < p → r.dutyTicks < r.periodTicks := fun hd => by
    rw [hduty]
    exact Nat.div_lt_of_lt_mul (by rw [mul_comm p]; exact Nat.mul_lt_mul_of_pos_left hd hpos)
  refine ⟨hduty, hpos, hle, hword, tpe_duty hr, by omega, fun hd => by simp [hduty, hd], hfull, fun hd => ?_⟩
  rw [tpe_duty hr]
  rcases hd.lt_or_eq with hd | hd
  · have := hless hd
    omega
  · have := hfull hd
    omega

end Sys2Proof.Machine
end

section
/-! The times CONFIG achieves (42_encoder R135, 60_exceptions R219), as exact rationals. -/

namespace Sys2Proof.Machine

open Sys2Proof.Claims

/-- After a CONFIG that ends with OK, `PERIOD[ch]` is the TPE's word (43_configure R157). -/
theorem State.configured_complete_period (s : State) (ch : Channel) (r : TpeResult) :
    ((s.configured ch r).complete s.cur none).period ch = r.word := by
  rw [State.period, State.complete_reg, State.configured_reg_period, if_pos rfl]

/-- How long a tick lasts at the index the TPE chose (60_exceptions R219). -/
theorem tickNs_of_tpe {p d : Nat} {r : TpeResult} (hr : tpe p d = some r) :
    tickNs r.idx = (divisor r.idx.toNat : Rat) * 125 / 3 := by
  have hvalid : ∀ i ∈ [0, 1, 2, 3, 4, 8, 9, 10, 11, 12], divisor i ≠ 0 := by decide
  have hdiv := hvalid _ (tpe_fields hr).1
  rw [tickNs, validPresc, if_pos (by simpa using hdiv)]

/-- Both divisions of the tick count truncate, so its ticks do not last longer than the period (42_encoder R135). -/
theorem tickCount_mul_divisor_le (i p : Nat) : tickCount i p * divisor i * 125 ≤ 3 * p := by
  have hfreq : dividedFreq i * divisor i ≤ 24000000 := Nat.div_mul_le_self _ _
  have hticks : tickCount i p * 1000000000 ≤ dividedFreq i * p := Nat.div_mul_le_self _ _
  have := calc
    tickCount i p * divisor i * 1000000000 = tickCount i p * 1000000000 * divisor i := by ring
    _ ≤ dividedFreq i * p * divisor i := Nat.mul_le_mul_right _ hticks
    _ = dividedFreq i * divisor i * p := by ring
    _ ≤ 24000000 * p := Nat.mul_le_mul_right _ hfreq
  omega

/-- Settles O31: the fields CONFIG stores, read back as times. -/
theorem achievedPeriodAtMostRequested : Obligations.AchievedPeriodAtMostRequested := by
  intro ch p d r s hidle hh hr
  obtain ⟨-, hpos, -, hprd⟩ := tpe_fields hr
  have hticks : (unpack r.word).1 = r.periodTicks := by rw [unpack, hprd, Nat.sub_add_cancel hpos]
  have hactive : (unpack r.word).2 = r.dutyTicks % 65536 := tpe_duty hr
  have hle : (r.periodTicks * divisor r.idx.toNat * 125 : Rat) ≤ 3 * p.toNat := by
    obtain ⟨i, hi, -, -, rfl⟩ := tpe_eq_some_iff.mp hr
    rw [tpeResult_idx_toNat _ _ hi]
    exact_mod_cast tickCount_mul_divisor_le i p.toNat
  have hperiod : ((s.configured ch r).complete s.cur none).achievedPeriodNs ch =
      (r.periodTicks : Rat) * (divisor r.idx.toNat : Rat) * 125 / 3 := by
    rw [State.achievedPeriodNs, State.configured_complete_period, State.complete_ctrl, presc_configured, hticks,
      tickNs_of_tpe hr]
    ring
  refine ⟨_, exec_config hidle hh ch (tpe_periodNs_ne_zero hr) hr, hperiod, ?_, ?_⟩
  · rw [hperiod]
    linarith
  · rw [State.achievedActiveNs, State.configured_complete_period, State.complete_ctrl, presc_configured, hactive,
      tickNs_of_tpe hr]
    ring

end Sys2Proof.Machine
end

section
/-! The lines 4b and 5 of CONFIG in a state of the invariant (43_configure R156, R157). -/

namespace Sys2Proof.Machine

/-- The locals of a CONFIG past its line 1 hold the TPE's result, whatever other contexts did (43_configure R150). -/
theorem State.Inv.config_locals {s : State} (hinv : s.Inv) {h n : Nat} {ch : Channel} {p d : BitVec 64} {l : Locals}
    (hctl : (s.host h).ctl = .busy (.config ch p d) n l) (hn : 4 ≤ n) :
    ∃ r, tpe p.toNat d.toNat = some r ∧ l.idx = r.idx ∧ l.word = r.word := by
  obtain ⟨-, -, hok⟩ := hinv
  have hok := hok h
  rw [hctl, Ctl.ok_config_iff] at hok
  obtain ⟨-, -, -, -, hr⟩ := hok
  exact hr hn

/-- Settles O56: each of the two lines writes what the locals hold. -/
theorem configLinesWriteTpeResult : Obligations.ConfigLinesWriteTpeResult := by
  intro s h ch p d l hinv
  refine ⟨fun hctl => ?_, fun hctl => ?_⟩
  · obtain ⟨r, hr, hidx, -⟩ := hinv.config_locals hctl (by decide)
    refine ⟨r, hr, (tpe_fields hr).1, ?_⟩
    rw [State.advance_busy s h hctl, ← hidx]
    rfl
  · obtain ⟨r, hr, -, hword⟩ := hinv.config_locals hctl (by decide)
    have hadv : s.advance h = (s.regWrite (.period ch) l.word).toLine h (.config ch p d) 10 l :=
      State.advance_busy s h hctl
    refine ⟨r, hr, ?_, ?_⟩
    · rw [hadv, State.toLine_eq, State.setHost_reg, State.regWrite_reg_same, hword]
    · rw [hadv, State.toLine_eq, State.setHost_ctrl, State.writePeriod_ctrl]

end Sys2Proof.Machine
end

section
/-! CTRL up to the bits a read may draw (10_state R24): the named bits, and with plain storage every bit, end as if each
read had returned what was stored. -/

namespace Sys2Proof.Machine

/-- The bits of CTRL that read as fresh draws. -/
def State.drawnBits (s : State) : Word :=
  match s.params.unnamedRead with
  | .storage => 0
  | .draw => ~~~ namedMask

theorem State.drawnBits_congr {s t : State} (h : t.params = s.params) : t.drawnBits = s.drawnBits := by
  rw [State.drawnBits, State.drawnBits, h]

theorem AgreeOutside.and {m v w : Word} (h : AgreeOutside m v w) (a : Word) : AgreeOutside m (v &&& a) (w &&& a) :=
  fun k hk => by rw [BitVec.getLsbD_and, BitVec.getLsbD_and, h k hk]

theorem AgreeOutside.or {m v w : Word} (h : AgreeOutside m v w) (a : Word) : AgreeOutside m (v ||| a) (w ||| a) :=
  fun k hk => by rw [BitVec.getLsbD_or, BitVec.getLsbD_or, h k hk]

theorem State.agreeOutside_regValue (s : State) : AgreeOutside s.drawnBits (s.regValue .ctrl) s.ctrl := by
  cases hs : s.params.unnamedRead with
  | storage => exact s.regValue_ctrl_storage hs ▸ .refl _ _
  | draw =>
    intro k hk
    have hnot : (~~~ namedMask).getLsbD k = false := by rwa [State.drawnBits, hs] at hk
    by_cases h32 : k < 32
    · have hnamed : namedMask.getLsbD k = true := by simpa [h32] using hnot
      simpa [hnamed] using congrArg (·.getLsbD k) s.regValue_ctrl_and_namedMask
    · rw [BitVec.getLsbD_of_ge _ k (by omega), BitVec.getLsbD_of_ge _ k (by omega)]

/-- CTRL is `w`, but for the bits a read may draw. -/
def State.CtrlIs (s : State) (w : Word) : Prop := AgreeOutside s.drawnBits s.ctrl w

namespace State.CtrlIs

theorem refl (s : State) : s.CtrlIs s.ctrl := AgreeOutside.refl _ _

variable {s t : State} {w : Word}

theorem congr (h : s.CtrlIs w) (hparams : t.params = s.params) (hctrl : t.ctrl = s.ctrl) : t.CtrlIs w := by
  rwa [State.CtrlIs, State.drawnBits_congr hparams, hctrl]

theorem modifyCtrl_and (h : s.CtrlIs w) (a : Word) : (s.modifyCtrl (· &&& a)).CtrlIs (w &&& a) := by
  rw [State.CtrlIs, State.drawnBits_congr (s.modifyCtrl_params _)]
  exact (s.agreeOutside_regValue.trans h).and a

theorem modifyCtrl_or (h : s.CtrlIs w) (a : Word) : (s.modifyCtrl (· ||| a)).CtrlIs (w ||| a) := by
  rw [State.CtrlIs, State.drawnBits_congr (s.modifyCtrl_params _)]
  exact (s.agreeOutside_regValue.trans h).or a

theorem eq_of_storage (h : s.CtrlIs w) (hs : s.params.unnamedRead = .storage) : s.ctrl = w :=
  word_ext fun k _ => h k (by simp [State.drawnBits, hs])

theorem and_namedMask (h : s.CtrlIs w) : s.ctrl &&& namedMask = w &&& namedMask := by
  refine word_ext fun k _ => ?_
  rw [BitVec.getLsbD_and, BitVec.getLsbD_and]
  cases hk : namedMask.getLsbD k with
  | false => rw [Bool.and_false, Bool.and_false]
  | true => rw [h k (by cases hs : s.params.unnamedRead <;> simp [State.drawnBits, hs, hk])]

end State.CtrlIs

end Sys2Proof.Machine
end

section
/-! Runs of register accesses (20_memory R60): they change registers alone, and each read of CTRL uses up as many draws
(10_state R24). -/

namespace Sys2Proof.Machine

/-- How many draws one read of CTRL uses up. -/
def State.drawsPerRead (s : State) : Nat :=
  match s.params.unnamedRead with
  | .storage => 0
  | .draw => 1

theorem State.afterRead_draws (s : State) : (s.afterRead .ctrl).draws = s.draws + s.drawsPerRead := by
  cases hs : s.params.unnamedRead <;> simp [State.afterRead, State.drawsPerRead, hs]

/-- From `s` to `t` only registers changed, and CTRL was read `n` times. -/
def State.Accesses (s t : State) (n : Nat) : Prop := ∃ c p0 p1,
  t = { s with ctrl := c, period0 := p0, period1 := p1, draws := s.draws + n * s.drawsPerRead }

theorem State.Accesses.trans {s t u : State} {m n : Nat} (hst : s.Accesses t m) (htu : t.Accesses u n) :
    s.Accesses u (m + n) := by
  obtain ⟨_, _, _, rfl⟩ := hst
  obtain ⟨c, p0, p1, rfl⟩ := htu
  exact ⟨c, p0, p1, by rw [Nat.add_mul, ← Nat.add_assoc]; rfl⟩

theorem State.Accesses.eq {s t : State} {n : Nat} (h : s.Accesses t n) : t = { s with
    ctrl := t.ctrl, period0 := t.period0, period1 := t.period1, draws := s.draws + n * s.drawsPerRead } := by
  obtain ⟨_, _, _, rfl⟩ := h
  rfl

theorem State.accesses_afterRead (s : State) : s.Accesses (s.afterRead .ctrl) 1 :=
  ⟨s.ctrl, s.period0, s.period1, by rw [Nat.one_mul, ← State.afterRead_draws]; exact s.afterRead_frame .ctrl⟩

theorem State.accesses_regWrite (s : State) (r : Reg) (v : Word) : s.Accesses (s.regWrite r v) 0 :=
  ⟨(s.regWrite r v).ctrl, (s.regWrite r v).period0, (s.regWrite r v).period1, by
    rw [Nat.zero_mul]; rcases r with _ | ⟨_ | _⟩ <;> rfl⟩

theorem State.accesses_modifyCtrl (s : State) (f : Word → Word) : s.Accesses (s.modifyCtrl f) 1 :=
  s.accesses_afterRead.trans (State.accesses_regWrite ..)

end Sys2Proof.Machine
end

section
/-! `PRESC` and `GATE` of the words CONFIG puts together (43_configure R155, R156, R158). -/

namespace Sys2Proof.Machine

theorem gate_or (v w : Word) (ch : Channel) : gate (v ||| w) ch = (gate v ch || gate w ch) := by
  simp only [gate_eq, BitVec.getLsbD_or]

theorem gate_and (v w : Word) (ch : Channel) : gate (v &&& w) ch = (gate v ch && gate w ch) := by
  simp only [gate_eq, BitVec.getLsbD_and]

theorem gate_namedMask (ch : Channel) : gate namedMask ch = true := by cases ch <;> decide

theorem gate_not_clearMask (ch : Channel) : gate (~~~ (prescMask ch ||| gateBit ch)) ch = false := by
  cases ch <;> decide

theorem gate_not_prescMask (ch : Channel) : gate (~~~ prescMask ch) ch = true := by cases ch <;> decide

theorem gate_prescAt (ch : Channel) (i : BitVec 4) : gate (prescAt ch i) ch = false := by
  rw [gate_eq, prescAt_getLsbD, BitVec.getLsbD_of_ge i _ (by omega), Bool.and_false]

theorem gate_withPresc (v : Word) (ch : Channel) (i : BitVec 4) : gate (withPresc v ch i) ch = gate v ch := by
  rw [withPresc, gate_or, gate_and, gate_not_prescMask, gate_prescAt, Bool.and_true, Bool.or_false]

/-- Words with the same named bits have the same fields. -/
theorem gate_congr {v w : Word} (h : v &&& namedMask = w &&& namedMask) (ch : Channel) : gate v ch = gate w ch := by
  simpa only [gate_and, gate_namedMask, Bool.and_true] using congrArg (gate · ch) h

theorem presc_congr {v w : Word} (h : v &&& namedMask = w &&& namedMask) (ch : Channel) :
    presc v ch = presc w ch := by
  simpa only [presc_and, presc_namedMask, BitVec.and_allOnes] using congrArg (presc · ch) h

theorem chShift_of_ne {c ch : Channel} (hc : c ≠ ch) :
    chShift c = 0 ∧ chShift ch = 15 ∨ chShift c = 15 ∧ chShift ch = 0 := by
  cases c with
  | ch0 => cases ch with
    | ch0 => exact absurd rfl hc
    | ch1 => exact .inl ⟨rfl, rfl⟩
  | ch1 => cases ch with
    | ch0 => exact .inr ⟨rfl, rfl⟩
    | ch1 => exact absurd rfl hc

/-- The fields of the other channel lie outside a channel's `PRESC` and `GATE`. -/
theorem AgreeOutside.presc_other {v w : Word} {ch c : Channel} (h : AgreeOutside (prescMask ch ||| gateBit ch) v w)
    (hc : c ≠ ch) : presc v c = presc w c := by
  refine BitVec.eq_of_getLsbD_eq fun k hk => ?_
  rw [presc_getLsbD, presc_getLsbD, h]
  rw [BitVec.getLsbD_or, prescMask_getLsbD, gateBit_getLsbD]
  rcases chShift_of_ne hc with ⟨e, e'⟩ | ⟨e, e'⟩
  · simp [e, e']
    omega
  · simp [e, e']
    omega

/-- CTRL after line 3b. -/
def clearedWord (v : Word) (ch : Channel) : Word := v &&& ~~~ (prescMask ch ||| gateBit ch)

/-- With the gate off from the start, line 4b completes `with_presc` (43_configure R158). -/
theorem clearedWord_or_of_not_gate {v : Word} {ch : Channel} (hg : gate v ch = false) (i : BitVec 4) :
    clearedWord v ch ||| prescAt ch i = withPresc v ch i := by
  refine word_ext fun k _ => ?_
  by_cases hk : k = chShift ch + 6
  · subst hk
    rw [← gate_eq, ← gate_eq, gate_withPresc, hg, clearedWord, gate_or, gate_and, hg, gate_prescAt]
    rfl
  · simp [clearedWord, withPresc, gateBit_getLsbD, hk]

/-- With the gate on at the start, line 6b completes it (43_configure R158). -/
theorem clearedWord_or_or_of_gate {v : Word} {ch : Channel} (hg : gate v ch = true) (i : BitVec 4) :
    clearedWord v ch ||| prescAt ch i ||| gateBit ch = withPresc v ch i := by
  refine word_ext fun k _ => ?_
  by_cases hk : k = chShift ch + 6
  · subst hk
    rw [← gate_eq, ← gate_eq, gate_withPresc, hg, gate_or, gate_eq (gateBit ch), gateBit_getLsbD]
    simp
  · simp [clearedWord, withPresc, gateBit_getLsbD, hk]

end Sys2Proof.Machine
end

section
/-! CONFIG with a representable period and a zero one, run as a whole (43_configure R153, R158). -/

namespace Sys2Proof.Machine

/-- Settles O22: the refusal changes the mark, and the context is idle as before. -/
theorem configZeroPeriodRefused : Obligations.ConfigZeroPeriodRefused := fun ch d s hidle hh =>
  ⟨_, exec_config_zero hidle hh ch d, rfl, rfl, rfl, rfl, rfl, s.refuse_host _ hidle⟩

/-- CONFIG's register accesses up to line 3b, which clears `PRESC[ch]` and `GATE[ch]`. -/
def State.cleared (s : State) (ch : Channel) : State :=
  (s.afterRead .ctrl).modifyCtrl (· &&& ~~~ (prescMask ch ||| gateBit ch))

/-- CONFIG's register accesses up to line 4b, which writes the new prescaler. -/
def State.prescaled (s : State) (ch : Channel) (r : TpeResult) : State :=
  (s.cleared ch).modifyCtrl (· ||| prescAt ch r.idx)

section
variable (s : State) (ch : Channel) (r : TpeResult)

theorem State.configured_eq : s.configured ch r =
    if gate (s.regValue .ctrl) ch then ((s.prescaled ch r).regWrite (.period ch) r.word).modifyCtrl (· ||| gateBit ch)
    else (s.prescaled ch r).regWrite (.period ch) r.word := rfl

theorem State.cleared_ctrlIs : (s.cleared ch).CtrlIs (clearedWord s.ctrl ch) :=
  ((State.CtrlIs.refl s).congr (s.afterRead_params _) (s.afterRead_ctrl _)).modifyCtrl_and _

theorem State.prescaled_ctrlIs : (s.prescaled ch r).CtrlIs (clearedWord s.ctrl ch ||| prescAt ch r.idx) :=
  (s.cleared_ctrlIs ch).modifyCtrl_or _

/-- CONFIG leaves CTRL as `with_presc` of its old value (43_configure R158). -/
theorem State.configured_ctrlIs : (s.configured ch r).CtrlIs (withPresc s.ctrl ch r.idx) := by
  have hstored : ((s.prescaled ch r).regWrite (.period ch) r.word).CtrlIs
      (clearedWord s.ctrl ch ||| prescAt ch r.idx) :=
    (s.prescaled_ctrlIs ch r).congr (State.regWrite_params ..) (State.writePeriod_ctrl ..)
  have hgate : gate (s.regValue .ctrl) ch = gate s.ctrl ch := gate_congr s.regValue_ctrl_and_namedMask ch
  rw [State.configured_eq, hgate]
  cases hg : gate s.ctrl ch with
  | false => exact clearedWord_or_of_not_gate hg r.idx ▸ hstored
  | true => exact clearedWord_or_or_of_gate hg r.idx ▸ hstored.modifyCtrl_or _

/-- CONFIG reads CTRL three times, and once more to restore the gate. -/
theorem State.accesses_configured :
    s.Accesses (s.configured ch r) (if gate (s.regValue .ctrl) ch then 4 else 3) := by
  have hstored : s.Accesses ((s.prescaled ch r).regWrite (.period ch) r.word) 3 :=
    ((s.accesses_afterRead.trans (State.accesses_modifyCtrl ..)).trans (State.accesses_modifyCtrl ..)).trans
      (State.accesses_regWrite ..)
  rw [State.configured_eq]
  split
  · exact hstored.trans (State.accesses_modifyCtrl ..)
  · exact hstored

theorem State.configured_period0 : (s.configured ch r).period0 = if ch = .ch0 then r.word else s.period0 :=
  (s.configured_reg_period ch r .ch0).trans (by cases ch <;> rfl)

theorem State.configured_period1 : (s.configured ch r).period1 = if ch = .ch1 then r.word else s.period1 :=
  (s.configured_reg_period ch r .ch1).trans (by cases ch <;> rfl)

end

/-- Settles O19: CONFIG's accesses field by field, and then its response. -/
theorem configNetEffect : Obligations.ConfigNetEffect := by
  intro ch p d r s hidle hh hr
  have hctrl := s.configured_ctrlIs ch r
  have hframe := (s.accesses_configured ch r).eq
  have hparams : (s.configured ch r).params = s.params := (congrArg State.params hframe :)
  refine ⟨(s.configured ch r).ctrl, (if gate (s.regValue .ctrl) ch then 4 else 3) * s.drawsPerRead, ?_,
    hctrl.and_namedMask, fun hs => ⟨hctrl.eq_of_storage (hparams ▸ hs), by simp [State.drawsPerRead, hs]⟩⟩
  rw [exec_config hidle hh ch (tpe_periodNs_ne_zero hr) hr, hframe, State.configured_period0, State.configured_period1]
  rfl

end Sys2Proof.Machine
end

section
/-! The lines of a command issued in an idle context, one after another with no other context moving (10_state R34). -/

namespace Sys2Proof.Machine

/-- The state after the first `k` lines of `cmd`. -/
def State.afterLines (s : State) (h : Nat) (cmd : Instr) (k : Nat) : State :=
  runLines (line cmd) h k (s.issue h cmd)

theorem State.afterLines_succ (s : State) (h : Nat) (cmd : Instr) (k : Nat) :
    s.afterLines h cmd (k + 1) = (s.afterLines h cmd k).advance h := by
  rw [State.afterLines, State.afterLines, runLines_eq_iterate _ (s.issue_executes h cmd),
    runLines_eq_iterate _ (s.issue_executes h cmd), Function.iterate_succ_apply']

/-- After `k` lines the command has ended, or line `k + 1` is next. -/
theorem State.afterLines_ctl (s : State) (h : Nat) (cmd : Instr) (k : Nat) :
    NextCtl cmd k ((s.afterLines h cmd k).host h).ctl := by
  induction k with
  | zero => exact .inr ⟨{}, by simp [State.afterLines, State.issue_eq]⟩
  | succ k ih =>
    rw [State.afterLines_succ]
    obtain hidle | ⟨l, hbusy⟩ := ih
    · rw [State.advance_idle _ h hidle]
      exact .inl hidle
    · rw [State.advance_busy _ h hbusy]
      exact line_ctl ..

end Sys2Proof.Machine
end

section
/-! CTRL after each line of CONFIG (43_configure R150, R159): the lines 3b, 4b and 6b (steps 6, 8 and 11) write it. -/

namespace Sys2Proof.Machine

@[simp] theorem State.toLine_ctrl (s : State) (h : Nat) (cmd : Instr) (n : Nat) (l : Locals) :
    (s.toLine h cmd n l).ctrl = s.ctrl := rfl

theorem State.requireHandle_ctrl {s t : State} (h : Nat) (ht : t.ctrl = s.ctrl) :
    (s.requireHandle h t).ctrl = s.ctrl := by
  unfold State.requireHandle
  split
  · rfl
  · exact ht

theorem lineConfig_ctrl {n : Nat} (hn : n ≠ 6 ∧ n ≠ 8 ∧ n ≠ 11) (ch : Channel) (p d : BitVec 64) (h : Nat) (l : Locals)
    (s : State) : (lineConfig ch p d h n l s).ctrl = s.ctrl := by
  obtain ⟨h3b, h4b, h6b⟩ := hn
  unfold lineConfig
  split
  · exact State.requireHandle_ctrl h rfl
  · split
    · rfl
    · rfl
  · split
    · rfl
    · rfl
  · exact s.afterRead_ctrl _
  · exact s.afterRead_ctrl _
  · exact absurd rfl h3b
  · exact s.afterRead_ctrl _
  · exact absurd rfl h4b
  · exact s.writePeriod_ctrl ..
  · split
    · exact s.afterRead_ctrl _
    · rfl
  · exact absurd rfl h6b
  · rfl

section
variable (s : State) (h : Nat) (ch : Channel) {p d : BitVec 64}

/-- Between two of its writes CONFIG keeps CTRL. -/
theorem ctrl_afterLines_config_of_le {a b : Nat} (hab : a ≤ b)
    (hkeep : ∀ n, a < n → n ≤ b → n ≠ 6 ∧ n ≠ 8 ∧ n ≠ 11) :
    (s.afterLines h (.config ch p d) b).ctrl = (s.afterLines h (.config ch p d) a).ctrl := by
  induction b, hab using Nat.le_induction with
  | base => rfl
  | succ b hb ih =>
    rw [← ih fun n hn hle => hkeep n hn (hle.trans b.le_succ), State.afterLines_succ]
    obtain hidle | ⟨l, hbusy⟩ := s.afterLines_ctl h (.config ch p d) b
    · rw [State.advance_idle _ h hidle]
    · rw [State.advance_busy _ h hbusy]
      exact lineConfig_ctrl (hkeep _ (Nat.lt_succ_of_le hb) le_rfl) ..

variable {s h} (hh : (s.host h).handle ≠ none) {r : TpeResult} (hr : tpe p.toNat d.toNat = some r)
include hh hr

theorem ctrl_afterLines_config_six : (s.afterLines h (.config ch p d) 6).ctrl = (s.cleared ch).ctrl := by
  simp [State.afterLines, State.issue, line, lineConfig, State.requireHandle_some, hh,
    show ¬ p = 0#64 from tpe_periodNs_ne_zero hr, hr, State.regRead, State.cleared, State.modifyCtrl]

theorem ctrl_afterLines_config_eight : (s.afterLines h (.config ch p d) 8).ctrl = (s.prescaled ch r).ctrl := by
  simp [State.afterLines, State.issue, line, lineConfig, State.requireHandle_some, hh,
    show ¬ p = 0#64 from tpe_periodNs_ne_zero hr, hr, State.regRead, State.cleared, State.prescaled, State.modifyCtrl]

end

theorem ctrl_afterLines_config_eleven {s : State} (hidle : (s.host s.cur).ctl = .idle)
    (hh : (s.host s.cur).handle ≠ none) (ch : Channel) {p d : BitVec 64} {r : TpeResult}
    (hr : tpe p.toNat d.toNat = some r) :
    (s.afterLines s.cur (.config ch p d) 11).ctrl = (s.configured ch r).ctrl := by
  have hexec := exec_config hidle hh ch (tpe_periodNs_ne_zero hr) hr
  rw [exec_eq_runCommand, runCommand_idle _ _ _ _ hidle] at hexec
  have hlast : s.afterLines s.cur (.config ch p d) 12 = (s.configured ch r).complete s.cur none :=
    Host.Outcome.next.inj hexec
  rw [← ctrl_afterLines_config_of_le s s.cur ch (Nat.le_succ 11) (by omega), hlast, State.complete_ctrl]

end Sys2Proof.Machine
end

section
/-! The gate from line 3b to 6b of CONFIG, and no glitch on either channel (43_configure R159, 70_reset R240): after
each line CTRL has the fields of a word that depends on the old CTRL and the TPE's index alone. -/

namespace Sys2Proof.Machine

/-- The word whose fields CTRL has after `k` lines of CONFIG. -/
def configWord (v : Word) (ch : Channel) (i : BitVec 4) (k : Nat) : Word :=
  if k < 6 then v
  else if k < 8 then clearedWord v ch
  else if k < 11 then clearedWord v ch ||| prescAt ch i
  else withPresc v ch i

/-- A write that leaves `GATE[c]` 0 or keeps `PRESC[c]` is no glitch on `c`. -/
theorem glitch_eq_false {v w : Word} {c : Channel} (h : gate w c = true → presc v c = presc w c) :
    glitch v w c = false := by
  cases hg : gate w c with
  | false => simp [glitch, hg]
  | true => simp [glitch, h hg]

section
variable (v : Word) (ch : Channel) (i : BitVec 4)

/-- The gate is off after each line from 3b to 6a, and as before everywhere else. -/
theorem gate_configWord (k : Nat) :
    gate (configWord v ch i k) ch = (gate v ch && decide (k < 6 ∨ 11 ≤ k)) := by
  have hcleared : gate (clearedWord v ch) ch = false := by
    rw [clearedWord, gate_and, gate_not_clearMask, Bool.and_false]
  unfold configWord
  split_ifs with h6 h8 h11
  · simp [h6]
  · simp [hcleared, h6, show ¬ 11 ≤ k by omega]
  · simp [gate_or, hcleared, gate_prescAt, h6, show ¬ 11 ≤ k by omega]
  · simp [gate_withPresc, show 11 ≤ k by omega]

theorem configWord_of_le {k : Nat} (hk : 11 ≤ k) : configWord v ch i k = withPresc v ch i := by
  rw [configWord, if_neg (by omega), if_neg (by omega), if_neg (by omega)]

/-- Line 6b, the one line that turns the gate on, keeps `PRESC[ch]`. -/
theorem presc_configWord_eq_of_gate {k : Nat} (hg : gate (configWord v ch i (k + 1)) ch = true) :
    presc (configWord v ch i k) ch = presc (configWord v ch i (k + 1)) ch := by
  rw [gate_configWord, Bool.and_eq_true, decide_eq_true_iff] at hg
  obtain ⟨-, hbefore | hafter⟩ := hg
  · simp [configWord, hbefore, show k < 6 by omega]
  · obtain rfl | hk : k = 10 ∨ 11 ≤ k := by omega
    · have hcleared : presc (clearedWord v ch) ch = 0#4 := by
        rw [clearedWord, presc_and, presc_not_clearMask, BitVec.and_zero]
      simp [configWord, presc_or, hcleared, presc_prescAt, presc_withPresc]
    · rw [configWord_of_le v ch i hk, configWord_of_le v ch i (Nat.le_succ_of_le hk)]

/-- No line changes the prescaler of the other channel. -/
theorem presc_configWord_other {c : Channel} (hc : c ≠ ch) (k : Nat) : presc (configWord v ch i k) c = presc v c := by
  have hcleared : AgreeOutside (prescMask ch ||| gateBit ch) (clearedWord v ch) v := agreeOutside_and_not v
  unfold configWord
  split_ifs
  · rfl
  · exact hcleared.presc_other hc
  · have hprescaled : AgreeOutside (prescMask ch ||| gateBit ch) (clearedWord v ch ||| prescAt ch i)
        (clearedWord v ch) :=
      agreeOutside_or _ fun n hn => prescAt_subset ch i n (bit_of_or_eq_false hn).1
    exact (hprescaled.trans hcleared).presc_other hc
  · have hwith : AgreeOutside (prescMask ch ||| gateBit ch) (withPresc v ch i) v := fun n hn =>
      agreeOutside_withPresc v ch i n (bit_of_or_eq_false hn).1
    exact hwith.presc_other hc

theorem glitch_configWord (k : Nat) (c : Channel) :
    glitch (configWord v ch i k) (configWord v ch i (k + 1)) c = false := by
  by_cases hc : c = ch
  · subst hc
    exact glitch_eq_false (presc_configWord_eq_of_gate v c i)
  · exact glitch_eq_false fun _ => by rw [presc_configWord_other v ch i hc, presc_configWord_other v ch i hc]

end

/-- CTRL after each line of CONFIG, in its named bits. -/
theorem ctrl_afterLines_config_and_namedMask {s : State} (hidle : (s.host s.cur).ctl = .idle)
    (hh : (s.host s.cur).handle ≠ none) (ch : Channel) {p d : BitVec 64} {r : TpeResult}
    (hr : tpe p.toNat d.toNat = some r) (k : Nat) :
    (s.afterLines s.cur (.config ch p d) k).ctrl &&& namedMask = configWord s.ctrl ch r.idx k &&& namedMask := by
  unfold configWord
  split_ifs with h6 h8 h11
  · rw [ctrl_afterLines_config_of_le s s.cur ch k.zero_le (by omega)]
    rfl
  · rw [ctrl_afterLines_config_of_le s s.cur ch (not_lt.mp h6) (by omega), ctrl_afterLines_config_six ch hh hr]
    exact (s.cleared_ctrlIs ch).and_namedMask
  · rw [ctrl_afterLines_config_of_le s s.cur ch (not_lt.mp h8) (by omega), ctrl_afterLines_config_eight ch hh hr]
    exact (s.prescaled_ctrlIs ch r).and_namedMask
  · rw [ctrl_afterLines_config_of_le s s.cur ch (not_lt.mp h11) (by omega),
      ctrl_afterLines_config_eleven hidle hh ch hr]
    exact (s.configured_ctrlIs ch r).and_namedMask

/-- Settles O46: the fields of CTRL after each line are those of `configWord`. -/
theorem configNeverGlitches : Obligations.ConfigNeverGlitches := by
  intro ch p d r s hidle hh hr cmd after
  have hnamed (k : Nat) : (after k).ctrl &&& namedMask = configWord s.ctrl ch r.idx k &&& namedMask :=
    ctrl_afterLines_config_and_namedMask hidle hh ch hr k
  have hgate (k : Nat) (c : Channel) : gate (after k).ctrl c = gate (configWord s.ctrl ch r.idx k) c :=
    gate_congr (hnamed k) c
  have hpresc (k : Nat) (c : Channel) : presc (after k).ctrl c = presc (configWord s.ctrl ch r.idx k) c :=
    presc_congr (hnamed k) c
  refine ⟨fun k hlo hhi => ?_, ?_, fun k hne => ?_, fun k c => ?_⟩
  · rw [hgate, gate_configWord, decide_eq_false (by omega), Bool.and_false]
  · rw [hgate, gate_configWord, decide_eq_true (by decide), Bool.and_true]
  · rw [hpresc, hpresc] at hne
    rw [hgate]
    exact Bool.eq_false_of_not_eq_true fun hg => hne (presc_configWord_eq_of_gate _ _ _ hg)
  · rw [glitch, hgate, hgate, hpresc, hpresc]
    exact glitch_configWord ..

end Sys2Proof.Machine
end

section
/-! ENABLE and DISABLE (44_enable R170 to R173, R175): each is one modification of CTRL and the response OK, so the
command's context can issue the other one next. -/

namespace Sys2Proof.Machine

open Sys2Proof.Claims

/-- Settles O15: ENABLE is one modification of CTRL, at the bits of `enBit` and `gateBit`. -/
theorem enableSetsEnAndGate : Obligations.EnableSetsEnAndGate := by
  intro ch s hidle hh
  refine ⟨?_, State.regValue_ctrl_storage⟩
  rw [exec_enable hidle hh, State.modifyCtrl_complete, enBit, gateBit, chShift]

/-- Settles O16: DISABLE is one modification of CTRL, at the bits of `enBit` and `gateBit`. -/
theorem disableClearsEnAndGate : Obligations.DisableClearsEnAndGate := by
  intro ch s hidle hh
  refine ⟨?_, State.regValue_ctrl_storage⟩
  rw [exec_disable hidle hh, State.modifyCtrl_complete, enBit, gateBit, chShift]

/-! ## The context after the response OK -/

theorem State.modifyCtrl_complete_cur (s : State) (f : Word → Word) :
    ((s.modifyCtrl f).complete s.cur none).cur = s.cur := by
  rw [State.modifyCtrl_complete]

theorem State.modifyCtrl_complete_host (s : State) (f : Word → Word) :
    ((s.modifyCtrl f).complete s.cur none).host s.cur =
      { s.host s.cur with ctl := .idle, responses := okResponse :: (s.host s.cur).responses } := by
  rw [State.complete_eq, State.finish_eq, State.setHost_host_same, State.modifyCtrl_host]
  rfl

theorem State.modifyCtrl_complete_ready (s : State) (f : Word → Word) :
    ready ((s.modifyCtrl f).complete s.cur none) := by
  rw [ready, State.modifyCtrl_complete_cur, State.modifyCtrl_complete_host]

theorem State.modifyCtrl_complete_mapped {s : State} (hh : mapped s) (f : Word → Word) :
    mapped ((s.modifyCtrl f).complete s.cur none) := by
  rw [mapped, State.modifyCtrl_complete_cur, State.modifyCtrl_complete_host]
  exact hh

/-! ## ENABLE and then DISABLE -/

/-- The state after ENABLE. -/
def State.enabled (s : State) (ch : Channel) : State :=
  (s.modifyCtrl (· ||| (enBit ch ||| gateBit ch))).complete s.cur none

/-- The state after DISABLE. -/
def State.disabled (s : State) (ch : Channel) : State :=
  (s.modifyCtrl (· &&& ~~~ (enBit ch ||| gateBit ch))).complete s.cur none

section
variable (s : State) (ch : Channel)

theorem exec_enable_eq_enabled {s : State} (hidle : ready s) (hh : mapped s) :
    exec (.enable ch) s = .next (s.enabled ch) := by
  rw [exec_enable hidle hh, State.enabled]
  simp only [BitVec.or_assoc]

theorem exec_disable_enabled {s : State} (hh : mapped s) :
    exec (.disable ch) (s.enabled ch) = .next ((s.enabled ch).disabled ch) :=
  exec_disable (s.modifyCtrl_complete_ready _) (State.modifyCtrl_complete_mapped hh _) ch

theorem en_disabled : en (s.disabled ch).ctrl ch = false := by
  simp [State.disabled, en_eq, enBit_getLsbD]

theorem gate_disabled : gate (s.disabled ch).ctrl ch = false := by
  simp [State.disabled, gate_eq, gateBit_getLsbD]

theorem State.enabled_disabled_params : ((s.enabled ch).disabled ch).params = s.params := by
  simp [State.disabled, State.enabled, State.modifyCtrl_complete]

/-- The two bits are set and then cleared, and each read of CTRL may draw. -/
theorem State.enabled_disabled_ctrlIs : ((s.enabled ch).disabled ch).CtrlIs
    ((s.ctrl ||| (enBit ch ||| gateBit ch)) &&& ~~~ (enBit ch ||| gateBit ch)) := by
  have henabled : (s.enabled ch).CtrlIs (s.ctrl ||| (enBit ch ||| gateBit ch)) :=
    ((State.CtrlIs.refl s).modifyCtrl_or _).congr rfl rfl
  exact (henabled.modifyCtrl_and _).congr rfl rfl

end

/-- A named bit outside `m` is that of any word which agrees outside `m` with what CTRL is, whatever a read drew. -/
theorem State.CtrlIs.xor_and_not_and_namedMask {s : State} {m v w : Word} (h : s.CtrlIs w) (hw : AgreeOutside m w v) :
    (s.ctrl ^^^ v) &&& ~~~ m &&& namedMask = 0 := by
  refine word_ext fun k hk => ?_
  cases hm : m.getLsbD k with
  | true => simp [hm]
  | false =>
    have hnamed : (s.ctrl.getLsbD k && namedMask.getLsbD k) = (v.getLsbD k && namedMask.getLsbD k) := by
      rw [← hw k hm, ← BitVec.getLsbD_and, h.and_namedMask, BitVec.getLsbD_and]
    simp only [BitVec.getLsbD_and, BitVec.getLsbD_xor, BitVec.getLsbD_not, hm, hk, decide_true, Bool.not_false,
      Bool.and_true, Bool.and_xor_distrib_right, hnamed, Bool.xor_self]
    exact BitVec.getLsbD_zero.symm

/-- Settles O29: CTRL ends as its old value with the mask of `EN[ch]` and `GATE[ch]` set and then cleared. -/
theorem enableThenDisableClearsBoth : Obligations.EnableThenDisableClearsBoth := by
  intro ch s hidle hh
  have hctrl := s.enabled_disabled_ctrlIs ch
  have hagree : AgreeOutside (enBit ch ||| gateBit ch)
      ((s.ctrl ||| (enBit ch ||| gateBit ch)) &&& ~~~ (enBit ch ||| gateBit ch)) s.ctrl :=
    (agreeOutside_and_not _).trans (agreeOutside_or _ fun _ hk => hk)
  refine ⟨s.enabled ch, (s.enabled ch).disabled ch, exec_enable_eq_enabled ch hidle hh, exec_disable_enabled ch hh,
    en_disabled .., gate_disabled .., hctrl.xor_and_not_and_namedMask hagree, fun hs => ?_, ?_, ?_⟩
  · rw [hctrl.eq_of_storage (s.enabled_disabled_params ch ▸ hs)]
    exact hagree.xor_and_not
  · simp [State.disabled, State.enabled]
  · simp [State.disabled, State.enabled]

end Sys2Proof.Machine
end

section
/-! RDREG and WRREG (45_register_access R180 to R183): one access of the register that `OFF` names and the response OK. -/

namespace Sys2Proof.Machine

open Sys2Proof.Claims

/-- The offsets of 20_memory R51 and their registers, as a list. -/
theorem accessReg_offsetAddr_of_mem {off : BitVec 8} {r : Reg}
    (h : (off, r) ∈ [(0x00, Reg.ctrl), (0x04, Reg.period .ch0), (0x08, Reg.period .ch1)]) :
    accessReg (offsetAddr off) 4 = some r := by
  rw [accessReg_offsetAddr]
  simp only [List.mem_cons, List.not_mem_nil, or_false, Prod.mk.injEq] at h
  rcases h with ⟨rfl, rfl⟩ | ⟨rfl, rfl⟩ | ⟨rfl, rfl⟩ <;> rfl

/-- The next state of a command that reads one register and returns the word read. -/
theorem State.afterRead_complete (s : State) (r : Reg) (v : Word) :
    (s.afterRead r).complete s.cur (some v) = { s with
      draws := (s.afterRead r).draws
      hosts := responded s { status := .ok, data := some v } } := by
  rw [s.afterRead_frame r]
  rfl

/-- Settles O17: RDREG is one read of its register, and only CTRL can read otherwise than as stored. -/
theorem rdregReturnsRegister : Obligations.RdregReturnsRegister := by
  intro r off s hidle hh hoff
  refine ⟨?_, rfl, rfl, State.regValue_ctrl_storage⟩
  rw [exec_rdreg hidle hh (accessReg_offsetAddr_of_mem hoff), State.afterRead_complete]

/-- Settles O18: WRREG is one write of the register that its offset names. -/
theorem wrregWritesWholeRegister : Obligations.WrregWritesWholeRegister := by
  intro off data s hidle hh hoff
  rcases (validOffset_iff off).mp hoff with rfl | rfl | rfl
  · exact exec_wrreg (r := .ctrl) hidle hh data rfl
  · exact exec_wrreg (r := .period .ch0) hidle hh data rfl
  · exact exec_wrreg (r := .period .ch1) hidle hh data rfl

end Sys2Proof.Machine
end

section
/-! The three ways a command that was issued ends (60_exceptions R203, R205, R208): with OK, with an error status, or
refused. -/

namespace Sys2Proof.Machine

open Sys2Proof.Claims

/-! ## The context after each of them -/

@[simp] theorem State.toLine_responses (s : State) (h : Nat) (cmd : Instr) (n : Nat) (l : Locals) :
    ((s.toLine h cmd n l).host h).responses = (s.host h).responses := by simp [State.toLine_eq]

@[simp] theorem State.finish_responses (s : State) (h : Nat) (r : Response) :
    ((s.finish h r).host h).responses = r :: (s.host h).responses := by simp [State.finish_eq]

@[simp] theorem State.refuse_responses (s : State) (h : Nat) (r : RefuseReason) :
    ((s.refuse h r).host h).responses = (s.host h).responses := by simp [State.refuse_eq]

/-- A response writes no handle (60_exceptions R208). -/
@[simp] theorem State.finish_handle (s : State) (h : Nat) (r : Response) (k : Nat) :
    ((s.finish h r).host k).handle = (s.host k).handle := by
  by_cases hk : k = h
  · subst hk
    simp [State.finish_eq]
  · rw [State.finish_eq, State.setHost_host_other _ _ hk]

/-! ## The end of a whole command -/

/-- How a whole command of the context `cur` ends: with OK after register accesses or a new handle; with an error after
calls of the accessor alone, and after none when no candidate fits the period; or refused, with nothing done. -/
inductive Ended (s : State) : State → Prop
  | ok {u : State} (d : Option Word) (hrefusals : u.refusals = s.refusals)
      (hresponses : (u.host s.cur).responses = (s.host s.cur).responses) : Ended s (u.complete s.cur d)
  | error {u : State} {e : Status} (he : e ≠ .ok) (hregs : SameRegs s u) (hhosts : u.hosts = s.hosts)
      (hrefusals : u.refusals = s.refusals) (hperiod : e = .periodUnrepresentable → u = s) : Ended s (u.raise s.cur e)
  | refused (r : RefuseReason) : Ended s (s.refuse s.cur r)

/-- An error before any access and any call. -/
theorem ended_raise (s : State) {e : Status} (he : e ≠ .ok) : Ended s (s.raise s.cur e) :=
  .error he ⟨rfl, rfl, rfl⟩ rfl rfl fun _ => rfl

/-- OK after register accesses. -/
theorem State.Accesses.ended_complete {s u : State} {n : Nat} (hu : s.Accesses u n) (d : Option Word) :
    Ended s (u.complete s.cur d) := by
  obtain ⟨_, _, _, rfl⟩ := hu
  exact .ok d rfl rfl

section
variable {s : State} (hidle : (s.host s.cur).ctl = .idle)
include hidle

/-- INIT ends with OK or with the error of the accessor's call that failed (40_initialize R102, R103). -/
theorem exec_init_ended : ∃ t, exec .init s = .next t ∧ Ended s t := by
  cases hopen : s.accessorOpen.1 with
  | err e =>
    exact ⟨_, exec_init_openFails hidle hopen,
      .error nofun ⟨s.accessorOpen_ctrl, s.accessorOpen_period0, s.accessorOpen_period1⟩ s.accessorOpen_hosts
        s.accessorOpen_refusals nofun⟩
  | ok =>
    cases hmap : s.accessorOpen.2.accessorMap.1 with
    | err e =>
      exact ⟨_, exec_init_mapFails hidle hopen hmap,
        .error nofun ⟨by simp, by simp, by simp⟩ (by simp) (by simp) nofun⟩
    | ok page =>
      exact ⟨_, exec_init_mapped hidle hopen hmap,
        .ok none (by simp [State.setHandle_eq]) (by simp [State.setHandle_eq])⟩

variable (hh : (s.host s.cur).handle ≠ none)
include hh

/-- CONFIG is refused, ends with the error, or ends with OK, by its period (60_exceptions R204, 43_configure R153). -/
theorem exec_config_ended (ch : Channel) (p d : BitVec 64) :
    ∃ t, exec (.config ch p d) s = .next t ∧ Ended s t := by
  by_cases hp : p = 0
  · subst hp
    exact ⟨_, exec_config_zero hidle hh ch d, .refused _⟩
  · cases hr : tpe p.toNat d.toNat with
    | none => exact ⟨_, exec_config_unrepresentable hidle hh ch hp hr, ended_raise s nofun⟩
    | some r => exact ⟨_, exec_config hidle hh ch hp hr, (s.accesses_configured ch r).ended_complete _⟩

theorem exec_rdreg_ended (off : BitVec 8) : ∃ t, exec (.rdreg off) s = .next t ∧ Ended s t := by
  cases hr : accessReg (offsetAddr off) 4 with
  | none => exact ⟨_, exec_rdreg_badOffset hidle hh hr, .refused _⟩
  | some r => exact ⟨_, exec_rdreg hidle hh hr, .ok _ (by simp) (by simp)⟩

theorem exec_wrreg_ended (off : BitVec 8) (data : Word) : ∃ t, exec (.wrreg off data) s = .next t ∧ Ended s t := by
  cases hr : accessReg (offsetAddr off) 4 with
  | none => exact ⟨_, exec_wrreg_badOffset hidle hh data hr, .refused _⟩
  | some r => exact ⟨_, exec_wrreg hidle hh data hr, (s.accesses_regWrite r data).ended_complete _⟩

omit hh in
/-- Every command of an idle context runs to one of the three ends. -/
theorem exec_ended (i : Instr) : ∃ t, exec i s = .next t ∧ Ended s t := by
  by_cases hi : i = .init
  · exact hi ▸ exec_init_ended hidle
  by_cases hh : (s.host s.cur).handle = none
  · exact ⟨_, exec_noHandle hidle hi hh, ended_raise s nofun⟩
  cases i with
  | init => exact absurd rfl hi
  | setpol ch pol => exact ⟨_, exec_setpol hidle hh ch pol, (s.accesses_modifyCtrl _).ended_complete _⟩
  | config ch p d => exact exec_config_ended hidle hh ch p d
  | enable ch => exact ⟨_, exec_enable hidle hh ch, (s.accesses_modifyCtrl _).ended_complete _⟩
  | disable ch => exact ⟨_, exec_disable hidle hh ch, (s.accesses_modifyCtrl _).ended_complete _⟩
  | rdreg off => exact exec_rdreg_ended hidle hh off
  | wrreg off data => exact exec_wrreg_ended hidle hh off data

end

theorem ended_of_exec {i : Instr} {s t : State} (ht : exec i s = .next t) : Ended s t := by
  obtain ⟨u, hu, hend⟩ := exec_ended (ready_of_exec ht) i
  cases hu.symm.trans ht
  exact hend

/-- Settles O26: an error or a refusal writes neither a register nor a handle, and a response leaves the mark alone. -/
theorem errorsAndRefusalsLeaveState : Obligations.ErrorsAndRefusalsLeaveState := by
  intro i s hidle
  obtain ⟨t, ht, hend⟩ := exec_ended hidle i
  refine ⟨t, ht, ?_⟩
  cases hend with
  | ok d hrefusals hresponses =>
    exact .inr ⟨_, by rw [State.complete_eq, State.finish_responses, hresponses], rfl, hrefusals⟩
  | @error u e he hregs hhosts hrefusals _ =>
    have hhost (k : Nat) : u.host k = s.host k := by rw [State.host, hhosts, State.host]
    refine .inl ⟨hregs.ctrl, hregs.period0, hregs.period1, fun k => ?_, .inl ⟨⟨e, none⟩, ?_, he, hrefusals⟩⟩
    · rw [State.raise_eq, State.finish_handle, hhost]
    · rw [State.raise_eq, State.finish_responses, hhost]
  | refused r =>
    exact .inl ⟨rfl, rfl, rfl, fun k => by rw [s.refuse_host r hidle], .inr ⟨s.refuse_responses _ r, r, rfl⟩⟩

end Sys2Proof.Machine
end

section
/-! The errors NotInitialized and PeriodUnrepresentable (60_exceptions R201, R204, R207), and the call for a Busy
context (R209). -/

namespace Sys2Proof.Machine

open Sys2Proof.Claims

/-- Settles O23: line 0 ends the command before any other. -/
theorem noHandleMeansNotInitialized : Obligations.NoHandleMeansNotInitialized := fun _ _ hi hidle hh =>
  exec_noHandle hidle hi hh

/-- Settles O25: every command is run by `runCommand`, which a Busy context stops. -/
theorem busyContextCannotIssue : Obligations.BusyContextCannotIssue := fun i s hbusy =>
  (exec_eq_runCommand i s).trans (runCommand_busy _ _ _ _ hbusy)

/-- Outside the periods of R129 the TPE finds no candidate (42_encoder R128). -/
theorem tpe_eq_none {p : Nat} (hp : p < 5000 ∨ 196807807807 < p) (d : Nat) : tpe p d = none := by
  rw [tpe_eq_map_winningIndex, (winningIndex_eq_none_iff p).mpr hp, Option.map_none]

/-- Settles O20: the TPE fails at line 1, before any access. -/
theorem configUnrepresentablePeriodWritesNothing : Obligations.ConfigUnrepresentablePeriodWritesNothing := by
  intro ch p d s hidle hh hp
  have hp0 : p ≠ 0 := by
    rintro rfl
    simp at hp
  exact exec_config_unrepresentable hidle hh ch hp0 (tpe_eq_none (by omega) _)

/-! ## The commands that modify CTRL once -/

/-- The lines of a command that reads CTRL and writes it back modified by `f`. -/
def lineModify (cmd : Instr) (f : Word → Word) : Body := fun h n l s =>
  match n with
  | 1 => s.requireHandle h (s.toLine h cmd 2 l)
  | 2 => (s.regRead .ctrl).2.toLine h cmd 3 { l with v := (s.regRead .ctrl).1 }
  | 3 => (s.regWrite .ctrl (f l.v)).toLine h cmd 4 l
  | _ => s.complete h none

theorem line_setpol (ch : Channel) (pol : Polarity) :
    line (.setpol ch pol) = lineModify (.setpol ch pol) (withBit · (actBit ch) (Polarity.act pol)) := rfl

theorem line_enable (ch : Channel) :
    line (.enable ch) = lineModify (.enable ch) (· ||| enBit ch ||| gateBit ch) := rfl

theorem line_disable (ch : Channel) :
    line (.disable ch) = lineModify (.disable ch) (· &&& ~~~ (enBit ch ||| gateBit ch)) := rfl

/-! ## The line that delivers PeriodUnrepresentable -/

/-- From `s` to `t` context `h` received the response PeriodUnrepresentable. -/
def GotUnrepresentable (s t : State) (h : Nat) : Prop :=
  (t.host h).responses = unrepresentableResponse :: (s.host h).responses

section
variable {s u : State} {h : Nat}

@[simp] theorem not_gotUnrepresentable_toLine (hu : u.host h = s.host h) (cmd : Instr) (n : Nat) (l : Locals) :
    ¬ GotUnrepresentable s (u.toLine h cmd n l) h := by
  simp [GotUnrepresentable, hu]

@[simp] theorem not_gotUnrepresentable_complete (d : Option Word) : ¬ GotUnrepresentable s (s.complete h d) h := by
  simp [GotUnrepresentable, State.complete_eq, unrepresentableResponse]

@[simp] theorem gotUnrepresentable_raise_iff (hu : u.host h = s.host h) (e : Status) :
    GotUnrepresentable s (u.raise h e) h ↔ e = .periodUnrepresentable := by
  simp [GotUnrepresentable, State.raise_eq, unrepresentableResponse, hu]

@[simp] theorem not_gotUnrepresentable_refuse (r : RefuseReason) : ¬ GotUnrepresentable s (s.refuse h r) h := by
  simp [GotUnrepresentable]

@[simp] theorem not_gotUnrepresentable_requireHandle (cmd : Instr) (n : Nat) (l : Locals) :
    ¬ GotUnrepresentable s (s.requireHandle h (s.toLine h cmd n l)) h := by
  unfold State.requireHandle
  split
  · simp
  · simp

/-- Of CONFIG's lines, only line 1 (step 3) delivers it, and only when the TPE fails. -/
theorem lineConfig_gotUnrepresentable {ch : Channel} {p d : BitVec 64} {n : Nat} {l : Locals}
    (hgot : GotUnrepresentable s (lineConfig ch p d h n l s) h) : n = 3 ∧ tpe p.toNat d.toNat = none := by
  unfold lineConfig at hgot
  split at hgot
  · simp at hgot
  · split at hgot
    · simp at hgot
    · simp at hgot
  · split at hgot
    · next hr => exact ⟨rfl, hr⟩
    · simp at hgot
  · simp [State.regRead] at hgot
  · simp [State.regRead] at hgot
  · simp at hgot
  · simp [State.regRead] at hgot
  · simp at hgot
  · simp at hgot
  · split at hgot
    · simp [State.regRead] at hgot
    · simp at hgot
  · split at hgot
    · simp at hgot
    · simp at hgot
  · simp at hgot

theorem lineInit_not_gotUnrepresentable (n : Nat) (l : Locals) : ¬ GotUnrepresentable s (lineInit h n l s) h := by
  unfold lineInit
  split
  · dsimp only
    split
    · simp
    · simp
  · simp
  · simp
  · dsimp only
    split
    · simp
    · simp
  · simp [GotUnrepresentable, State.setHandle_eq]
  · simp
  · simp

theorem lineModify_not_gotUnrepresentable (cmd : Instr) (f : Word → Word) (n : Nat) (l : Locals) :
    ¬ GotUnrepresentable s (lineModify cmd f h n l s) h := by
  unfold lineModify
  split
  · simp
  · simp [State.regRead]
  · simp
  · simp

theorem lineRdreg_not_gotUnrepresentable (off : BitVec 8) (n : Nat) (l : Locals) :
    ¬ GotUnrepresentable s (lineRdreg off h n l s) h := by
  unfold lineRdreg State.memRead
  split
  · simp
  · cases accessReg (offsetAddr off) 4 with
    | none => simp
    | some r => simp [State.regRead]
  · simp

theorem lineWrreg_not_gotUnrepresentable (off : BitVec 8) (data : Word) (n : Nat) (l : Locals) :
    ¬ GotUnrepresentable s (lineWrreg off data h n l s) h := by
  unfold lineWrreg State.memWrite
  split
  · simp
  · cases accessReg (offsetAddr off) 4 with
    | none => simp
    | some r => simp
  · simp

/-- Of all lines of all commands, it is delivered only by the line of CONFIG at which the TPE fails. -/
theorem line_gotUnrepresentable {i : Instr} {n : Nat} {l : Locals} (hgot : GotUnrepresentable s (line i h n l s) h) :
    n = 3 ∧ ∃ ch p d, i = .config ch p d ∧ tpe p.toNat d.toNat = none := by
  cases i with
  | init => exact absurd hgot (lineInit_not_gotUnrepresentable n l)
  | setpol ch pol => exact absurd (line_setpol ch pol ▸ hgot) (lineModify_not_gotUnrepresentable _ _ n l)
  | config ch p d =>
    obtain ⟨hn, hr⟩ := lineConfig_gotUnrepresentable hgot
    exact ⟨hn, ch, p, d, rfl, hr⟩
  | enable ch => exact absurd (line_enable ch ▸ hgot) (lineModify_not_gotUnrepresentable _ _ n l)
  | disable ch => exact absurd (line_disable ch ▸ hgot) (lineModify_not_gotUnrepresentable _ _ n l)
  | rdreg off => exact absurd hgot (lineRdreg_not_gotUnrepresentable off n l)
  | wrreg off data => exact absurd hgot (lineWrreg_not_gotUnrepresentable off data n l)

end

/-- Of the ends of a command, only the error delivers it, and then nothing was done before. -/
theorem Ended.eq_raise_of_gotUnrepresentable {s t : State} (hend : Ended s t)
    (hgot : GotUnrepresentable s t s.cur) : t = s.raise s.cur .periodUnrepresentable := by
  cases hend with
  | ok d _ hresponses => simp [GotUnrepresentable, State.complete_eq, hresponses, unrepresentableResponse] at hgot
  | @error u e _ _ hhosts _ hperiod =>
    have he : e = .periodUnrepresentable :=
      (gotUnrepresentable_raise_iff (by rw [State.host, hhosts, State.host]) e).mp hgot
    rw [hperiod he, he]
  | refused r => exact absurd hgot (not_gotUnrepresentable_refuse r)

/-- Settles O21: what delivers the status, of the lines and of the ends of a command. -/
theorem periodUnrepresentableOnlyFromConfig : Obligations.PeriodUnrepresentableOnlyFromConfig :=
  ⟨fun ch p d h l s hr => by simp only [line, lineConfig, hr], fun _ _ _ _ _ _ hgot => line_gotUnrepresentable hgot,
    fun _ _ _ _ ht hgot => (ended_of_exec ht).eq_raise_of_gotUnrepresentable hgot⟩

end Sys2Proof.Machine
end

section
/-! When the counter of a channel runs (60_exceptions R215): ENABLE sets and DISABLE clears what it depends on, and no
other command that modifies CTRL touches it. -/

namespace Sys2Proof.Machine

open Sys2Proof.Claims

/-- The mask holds neither `EN` nor `GATE` of any channel. -/
def SparesRunning (m : Word) : Prop :=
  ∀ c, m.getLsbD (chShift c + 4) = false ∧ m.getLsbD (chShift c + 6) = false

theorem SparesRunning.or {m m' : Word} (h : SparesRunning m) (h' : SparesRunning m') : SparesRunning (m ||| m') := by
  intro c
  simp [h c, h' c]

theorem sparesRunning_actBit (ch : Channel) : SparesRunning (actBit ch) := by
  intro c
  rw [actBit_getLsbD, actBit_getLsbD, decide_eq_false_iff_not, decide_eq_false_iff_not]
  rcases chShift_cases ch with e | e <;> rcases chShift_cases c with e' | e' <;> omega

theorem sparesRunning_prescMask (ch : Channel) : SparesRunning (prescMask ch) := fun c => by
  cases ch <;> cases c <;> decide

/-- `EN` and `GATE` are named bits. -/
theorem State.sparesRunning_drawnBits (s : State) : SparesRunning s.drawnBits := by
  intro c
  cases hs : s.params.unnamedRead with
  | storage => simp [State.drawnBits, hs]
  | draw =>
    rw [State.drawnBits, hs]
    cases c <;> decide

theorem AgreeOutside.trans_or {m m' u v w : Word} (h : AgreeOutside m u v) (h' : AgreeOutside m' v w) :
    AgreeOutside (m ||| m') u w := fun k hk =>
  (h k (bit_of_or_eq_false hk).1).trans (h' k (bit_of_or_eq_false hk).2)

/-- A counter runs as before when CTRL changed in other bits alone. -/
theorem State.running_eq_of_agreeOutside {s t : State} {m : Word} (hm : SparesRunning m)
    (h : AgreeOutside m t.ctrl s.ctrl) (c : Channel) : t.running c = s.running c := by
  rw [State.running, State.running, en_eq, en_eq, gate_eq, gate_eq, h _ (hm c).1, h _ (hm c).2]

theorem State.running_modifyCtrl_enable (s : State) (ch : Channel) :
    (s.modifyCtrl (· ||| enBit ch ||| gateBit ch)).running ch = true := by
  simp [State.running, en_eq, gate_eq, enBit_getLsbD, gateBit_getLsbD]

/-- SETPOL writes the bit of `ACT[ch]` to the word it read (41_polarity R112). -/
theorem State.running_modifyCtrl_withBit (s : State) (ch : Channel) (b : Bool) (c : Channel) :
    (s.modifyCtrl (withBit · (actBit ch) b)).running c = s.running c :=
  State.running_eq_of_agreeOutside ((sparesRunning_actBit ch).or s.sparesRunning_drawnBits)
    ((agreeOutside_withBit (actBit ch) b _).trans_or s.agreeOutside_regValue) c

/-- CONFIG leaves CTRL as `with_presc` of its old value (43_configure R158, R160). -/
theorem State.running_configured (s : State) (ch : Channel) (r : TpeResult) (c : Channel) :
    (s.configured ch r).running c = s.running c :=
  State.running_eq_of_agreeOutside ((State.sparesRunning_drawnBits _).or (sparesRunning_prescMask ch))
    (AgreeOutside.trans_or (s.configured_ctrlIs ch r) (agreeOutside_withPresc s.ctrl ch r.idx)) c

/-- A CONFIG that the TPE fails accesses no register. -/
theorem exec_config_running {s : State} (hidle : ready s) (hh : mapped s) (ch : Channel) {p : BitVec 64} (d : BitVec 64)
    (hp : p ≠ 0) : ∃ t, exec (.config ch p d) s = .next t ∧ ∀ c, t.running c = s.running c := by
  cases hr : tpe p.toNat d.toNat with
  | none => exact ⟨_, exec_config_unrepresentable hidle hh ch hp hr, fun _ => rfl⟩
  | some r => exact ⟨_, exec_config hidle hh ch hp hr, s.running_configured ch r⟩

/-- Settles O32, by the bits of CTRL each command modifies. -/
theorem commandsStartAndStopCounter : Obligations.CommandsStartAndStopCounter := fun ch s hidle hh =>
  ⟨⟨_, exec_enable hidle hh ch, s.running_modifyCtrl_enable ch⟩,
    ⟨_, exec_disable hidle hh ch, congrArg (· && _) (en_disabled s ch)⟩,
    fun _ => ⟨_, exec_setpol hidle hh ch _, s.running_modifyCtrl_withBit ch _⟩,
    fun _ d hp => exec_config_running hidle hh ch d hp⟩

end Sys2Proof.Machine
end

section
/-! What one step can do (20_memory R61, R62), said once: each event of a context of HOSTS answers a next state. -/

namespace Sys2Proof.Machine

/-- The event delivers a command of these words for its context. -/
def Event.Delivers (e : Event) (ws : List Word) : Prop := e = .command e.host ws ∨ e = .issue e.host ws

/-- Everything an event of a context of HOSTS can do: its context executes a line, which it also does while a command
waits for it; its command is refused by the decoder, is run whole, or is issued; or the context ends. -/
inductive EventEffect (s : State) (e : Event) (rest : List Event) : State → Prop
  | wait {ws : List Word} (he : e.Delivers ws) (hbusy : (s.host e.host).ctl ≠ .idle) :
      EventEffect s e rest ((s.take e.host s.input).advance e.host)
  | advance (he : e = .advance e.host) : EventEffect s e rest ((s.take e.host rest).advance e.host)
  | refuseDecode {ws : List Word} {r : IllegalReason} (he : e.Delivers ws) (hidle : (s.host e.host).ctl = .idle)
      (hdec : decode ws = .error r) : EventEffect s e rest ((s.take e.host rest).refuseDecode r)
  | exec {ws : List Word} {i : Instr} {t : State} (he : e = .command e.host ws) (hidle : (s.host e.host).ctl = .idle)
      (hdec : decode ws = .ok i) (ht : exec i (s.take e.host rest) = .next t) : EventEffect s e rest t
  | issue {ws : List Word} {i : Instr} (he : e = .issue e.host ws) (hidle : (s.host e.host).ctl = .idle)
      (hdec : decode ws = .ok i) : EventEffect s e rest ((s.take e.host rest).issue e.host i)
  | exit (he : e = .exit e.host) : EventEffect s e rest ((s.take e.host rest).exitHost e.host)

theorem runEvent_effect (s : State) (e : Event) (rest : List Event) :
    ∃ t, s.runEvent e rest = .next t ∧ EventEffect s e rest t := by
  cases e with
  | command h ws =>
    cases hctl : (s.host h).ctl with
    | busy cmd n l => exact ⟨_, (runEvent_of_busy ws rest hctl).1, .wait (.inl rfl) (ne_of_eq_of_ne hctl nofun)⟩
    | idle =>
      cases hdec : decode ws with
      | error r => exact ⟨_, (runEvent_of_decode_error rest hctl hdec).1, .refuseDecode (.inl rfl) hctl hdec⟩
      | ok i =>
        have ht := exec_eq_iterate i (s.take h rest) hctl
        refine ⟨_, ?_, .exec rfl hctl hdec ht⟩
        simp only [State.runEvent, hctl, hdec, ht]
  | issue h ws =>
    cases hctl : (s.host h).ctl with
    | busy cmd n l => exact ⟨_, (runEvent_of_busy ws rest hctl).2, .wait (.inr rfl) (ne_of_eq_of_ne hctl nofun)⟩
    | idle =>
      cases hdec : decode ws with
      | error r => exact ⟨_, (runEvent_of_decode_error rest hctl hdec).2, .refuseDecode (.inr rfl) hctl hdec⟩
      | ok i => exact ⟨(s.take h rest).issue h i, by simp only [State.runEvent, hctl, hdec], .issue rfl hctl hdec⟩
  | advance h => exact ⟨_, rfl, .advance rfl⟩
  | exit h => exact ⟨_, rfl, .exit rfl⟩

/-- Everything a step can do: nothing without input, the drop of an event of no context, or the effect of an event. -/
inductive StepEffect (s : State) : State → Prop
  | noInput (hin : s.input = []) : StepEffect s s
  | drop {e : Event} {rest : List Event} (hin : s.input = e :: rest) (hh : e.host ∉ s.params.hosts) :
      StepEffect s (s.dropEvent rest)
  | event {e : Event} {rest : List Event} {t : State} (hin : s.input = e :: rest) (hh : e.host ∈ s.params.hosts)
      (h : EventEffect s e rest t) : StepEffect s t

theorem step_effect (s : State) : ∃ t, step s = .next t ∧ StepEffect s t := by
  rcases step_cases s with ⟨hin, h⟩ | ⟨e, rest, hin, ⟨hh, h⟩ | ⟨hh, h⟩⟩
  · exact ⟨s, h, .noInput hin⟩
  · obtain ⟨t, ht, heff⟩ := runEvent_effect s e rest
    exact ⟨t, h.trans ht, .event hin hh heff⟩
  · exact ⟨_, h, .drop hin hh⟩

theorem stepEffect_of_step {s t : State} (h : step s = .next t) : StepEffect s t := by
  obtain ⟨u, hu, heff⟩ := step_effect s
  cases hu.symm.trans h
  exact heff

/-- Settles O43: whatever the step does, it answers. -/
theorem everyStepAnswers : Obligations.EveryStepAnswers := fun s => by
  obtain ⟨t, ht, -⟩ := step_effect s
  exact ⟨t, ht⟩

/-- Settles O57: the event is dropped. -/
theorem onlyHostsAct : Obligations.OnlyHostsAct := fun s e rest hin hh => step_unknownHost s e rest hin hh

end Sys2Proof.Machine
end

section
/-! What no step does: it touches no record of another context and no parameter (60_exceptions R213), writes no handle
but by INIT (R206), and takes no reason out of the mark (R205). -/

namespace Sys2Proof.Machine

/-! ## The other contexts and the parameters -/

theorem State.advance_host_other (s : State) {h k : Nat} (hk : k ≠ h) : (s.advance h).host k = s.host k := by
  unfold State.advance
  split
  · rfl
  · exact line_host_other _ h _ _ s hk

/-- The record of context `k` and the parameters are as before. -/
structure SameFor (k : Nat) (s t : State) : Prop where
  host   : t.host k = s.host k
  params : t.params = s.params

theorem sameFor_advance (s : State) {h k : Nat} (hk : k ≠ h) : SameFor k s (s.advance h) :=
  ⟨s.advance_host_other hk, s.advance_params h⟩

theorem sameFor_setHost (s : State) {h k : Nat} (c : HostCtx) (hk : k ≠ h) : SameFor k s (s.setHost h c) :=
  ⟨s.setHost_host_other c hk, rfl⟩

theorem SameFor.trans {k : Nat} {s t u : State} (h1 : SameFor k s t) (h2 : SameFor k t u) : SameFor k s u :=
  ⟨h2.host.trans h1.host, h2.params.trans h1.params⟩

/-- A whole command is its issue and its lines, each by the context `cur`. -/
theorem sameFor_exec {i : Instr} {s t : State} {k : Nat} (hk : k ≠ s.cur) (ht : exec i s = .next t) :
    SameFor k s t := by
  have hidle := ready_of_exec ht
  rw [exec_eq_runCommand, runCommand_idle _ _ _ _ hidle] at ht
  cases ht
  exact runLines_induction (P := SameFor k s)
    (fun n l u hu => hu.trans ⟨line_host_other i _ n l u hk, line_params i _ n l u⟩) _ (sameFor_setHost s _ hk)

theorem EventEffect.sameFor {s t : State} {e : Event} {rest : List Event} {k : Nat} (h : EventEffect s e rest t)
    (hk : k ≠ e.host) : SameFor k s t := by
  have htake (input : List Event) : SameFor k s (s.take e.host input) := ⟨rfl, rfl⟩
  cases h with
  | wait _ _ => exact (htake s.input).trans (sameFor_advance _ hk)
  | advance _ => exact (htake rest).trans (sameFor_advance _ hk)
  | refuseDecode _ _ _ => exact ⟨rfl, rfl⟩
  | exec _ _ _ ht => exact (htake rest).trans (sameFor_exec hk ht)
  | issue _ _ _ => exact (htake rest).trans (sameFor_setHost _ _ hk)
  | exit _ => exact (htake rest).trans (sameFor_setHost _ _ hk)

/-- Settles O49: whatever an event does, it does for its own context. -/
theorem stepsLeaveOtherContextsAlone : Obligations.StepsLeaveOtherContextsAlone := by
  intro s t k ht hk
  have hsame : SameFor k s t := by
    cases stepEffect_of_step ht with
    | noInput _ => exact ⟨rfl, rfl⟩
    | drop _ _ => exact ⟨rfl, rfl⟩
    | event hin _ h => exact h.sameFor (hk _ _ hin).symm
  exact ⟨hsame.host, hsame.params⟩

/-! ## Who writes a handle -/

/-- Line 0 of every command but INIT decides on the handle. -/
theorem line_first (i : Instr) (hi : i ≠ .init) (h : Nat) (l : Locals) (s : State) :
    line i h 1 l s = if (s.host h).handle = none then s.raise h .notInitialized else s.toLine h i 2 l := by
  split
  · next hh => exact line_first_noHandle i hi h l s hh
  · next hh => exact line_first_handle i hi h l s hh

/-- A line that changes a handle is INIT's line 5. -/
theorem State.advance_writes_handle {s : State} {h : Nat}
    (hne : ((s.advance h).host h).handle ≠ (s.host h).handle) : ∃ l, (s.host h).ctl = .busy .init 5 l := by
  cases hctl : (s.host h).ctl with
  | idle => exact absurd (by rw [State.advance_idle s h hctl]) hne
  | busy cmd n l =>
    obtain ⟨t, c, hline, heff⟩ := line_effect cmd h n l s
    rw [State.advance_busy s h hctl, hline, State.setHost_host_same] at hne
    obtain ⟨rfl, rfl⟩ := heff.handle.resolve_left hne
    exact ⟨l, rfl⟩

/-- No whole command but INIT changes the handle of its context. -/
theorem exec_handle_eq {i : Instr} {s t : State} (hi : i ≠ .init) (ht : exec i s = .next t) :
    (t.host s.cur).handle = (s.host s.cur).handle := by
  have hidle := ready_of_exec ht
  rw [exec_eq_runCommand, runCommand_idle _ _ _ _ hidle] at ht
  cases ht
  exact runLines_induction (P := fun u => (u.host s.cur).handle = (s.host s.cur).handle)
    (fun n l u hu => (line_handle i _ n l u hi).trans hu) _ (State.toLine_handle ..)

/-- What the event of a context did that changed the context's handle. -/
theorem EventEffect.writes_handle {s t : State} {e : Event} {rest : List Event} (h : EventEffect s e rest t)
    (hne : (t.host e.host).handle ≠ (s.host e.host).handle) :
    (e = .exit e.host ∧ (t.host e.host).handle = none) ∨
      (∃ ws, e = .command e.host ws ∧ (s.host e.host).ctl = .idle ∧ decode ws = .ok .init) ∨
      ∃ l, (s.host e.host).ctl = .busy .init 5 l := by
  cases h with
  | wait _ _ => exact .inr (.inr (State.advance_writes_handle (s := s.take e.host s.input) hne))
  | advance _ => exact .inr (.inr (State.advance_writes_handle (s := s.take e.host rest) hne))
  | refuseDecode _ _ _ => exact absurd rfl hne
  | @exec ws i t he hidle hdec ht =>
    by_cases hi : i = .init
    · exact .inr (.inl ⟨ws, he, hidle, hi ▸ hdec⟩)
    · exact absurd (exec_handle_eq hi ht) hne
  | issue _ _ _ => exact absurd (State.toLine_handle ..) hne
  | exit he => exact .inl ⟨he, by simp [State.exitHost_eq, HostCtx.fresh]⟩

/-- Settles O50: only the event's own context can change, and it does by one of the three. -/
theorem onlyInitWritesHandles : Obligations.OnlyInitWritesHandles := by
  refine ⟨fun i h l s hi => line_first i hi h l s, fun s t k ht hne => ?_⟩
  cases stepEffect_of_step ht with
  | noInput _ => exact absurd rfl hne
  | drop _ _ => exact absurd rfl hne
  | @event e rest t hin _ h =>
    by_cases hk : k = e.host
    · subst hk
      rcases h.writes_handle hne with ⟨he, hnone⟩ | ⟨ws, he, hidle, hdec⟩ | hline
      · exact .inl ⟨rest, he ▸ hin, hnone⟩
      · exact .inr (.inl ⟨ws, rest, he ▸ hin, hidle, hdec⟩)
      · exact .inr (.inr hline)
    · exact absurd (congrArg HostCtx.handle (h.sameFor hk).host) hne

/-! ## The mark -/

/-- The mark is as before, or has one new reason in front. -/
def MarkKept (s t : State) : Prop := t.refusals = s.refusals ∨ ∃ r, t.refusals = r :: s.refusals

theorem State.markKept_advance (s : State) (h : Nat) : MarkKept s (s.advance h) := by
  cases hctl : (s.host h).ctl with
  | idle => exact .inl (by rw [State.advance_idle s h hctl])
  | busy cmd n l =>
    obtain ⟨t, c, hline, heff⟩ := line_effect cmd h n l s
    rw [State.advance_busy s h hctl, hline]
    exact heff.refusals

/-- A whole command is refused at most once, since the refusal ends it. -/
theorem Ended.markKept {s t : State} (h : Ended s t) : MarkKept s t := by
  cases h with
  | ok _ hrefusals _ => exact .inl hrefusals
  | error _ _ _ hrefusals _ => exact .inl hrefusals
  | refused r => exact .inr ⟨r, rfl⟩

theorem EventEffect.markKept {s t : State} {e : Event} {rest : List Event} (h : EventEffect s e rest t) :
    MarkKept s t := by
  cases h with
  | wait _ _ => exact State.markKept_advance (s.take e.host s.input) e.host
  | advance _ => exact State.markKept_advance (s.take e.host rest) e.host
  | refuseDecode _ _ _ => exact .inr ⟨_, rfl⟩
  | exec _ _ _ ht => exact (ended_of_exec ht).markKept
  | issue _ _ _ => exact .inl rfl
  | exit _ => exact .inl rfl

/-- Settles O52: a line, a whole command and the decoder each add at most one reason. -/
theorem refusalMarkIsKept : Obligations.RefusalMarkIsKept := by
  intro s t ht
  have hkept : MarkKept s t := by
    cases stepEffect_of_step ht with
    | noInput _ => exact .inl rfl
    | drop _ _ => exact .inl rfl
    | event _ _ h => exact h.markKept
  rcases hkept with hsame | ⟨r, hnew⟩
  · exact ⟨[], hsame, Nat.zero_le 1⟩
  · exact ⟨[r], hnew, le_rfl⟩

end Sys2Proof.Machine
end

section
/-! A handle lives until its context ends (70_reset R233): no line, and so no whole command, takes one away. -/

namespace Sys2Proof.Machine

/-- No line takes a handle away: the one that writes it, INIT's line 5, leaves one (60_exceptions R206). -/
theorem line_keeps_handle (cmd : Instr) (n : Nat) (l : Locals) {s : State} {h : Nat}
    (hh : (s.host h).handle ≠ none) : ((line cmd h n l s).host h).handle ≠ none := by
  obtain ⟨t, c, hline, heff⟩ := line_effect cmd h n l s
  rcases heff.handle with hsame | ⟨rfl, rfl⟩
  · rwa [hline, State.setHost_host_same, hsame]
  · simp [line, lineInit, State.setHandle_eq]

theorem State.advance_keeps_handle {s : State} {h : Nat} (hh : (s.host h).handle ≠ none) :
    ((s.advance h).host h).handle ≠ none := by
  unfold State.advance
  split
  · exact hh
  · exact line_keeps_handle _ _ _ hh

theorem exec_keeps_handle {i : Instr} {s t : State} (ht : exec i s = .next t) (hh : (s.host s.cur).handle ≠ none) :
    (t.host s.cur).handle ≠ none := by
  have hidle := ready_of_exec ht
  rw [exec_eq_runCommand, runCommand_idle _ _ _ _ hidle] at ht
  cases ht
  exact runLines_induction (P := fun u => (u.host s.cur).handle ≠ none) (fun n l _ => line_keeps_handle i n l) _
    ((State.toLine_handle ..).trans_ne hh)

/-- Of the effects of an event on its own context, only the context's end takes the handle away. -/
theorem EventEffect.keeps_handle {s t : State} {e : Event} {rest : List Event} (h : EventEffect s e rest t)
    (hexit : e ≠ .exit e.host) (hh : (s.host e.host).handle ≠ none) : (t.host e.host).handle ≠ none := by
  cases h with
  | wait _ _ => exact State.advance_keeps_handle (s := s.take e.host s.input) hh
  | advance _ => exact State.advance_keeps_handle (s := s.take e.host rest) hh
  | refuseDecode _ _ _ => exact hh
  | exec _ _ _ ht => exact exec_keeps_handle ht hh
  | issue _ _ _ => exact (State.toLine_handle ..).trans_ne hh
  | exit he => exact absurd he hexit

theorem step_exit {s : State} {h : Nat} {rest : List Event} (hin : s.input = .exit h :: rest)
    (hh : h ∈ s.params.hosts) : step s = .next ((s.take h rest).exitHost h) :=
  step_knownHost s _ rest hin hh

/-- Settles O51: an event changes its own context alone, and the end of a context replaces that context's record. -/
theorem handleLivesUntilContextEnds : Obligations.HandleLivesUntilContextEnds := by
  refine ⟨fun s t k ht hh hexit => ?_, fun s h rest hin hmem => ?_⟩
  · cases stepEffect_of_step ht with
    | noInput _ => exact hh
    | drop _ _ => exact hh
    | @event e rest t hin _ heff =>
      by_cases hk : k = e.host
      · subst hk
        exact heff.keeps_handle (fun he => hexit rest (he ▸ hin)) hh
      · rwa [(heff.sameFor hk).host]
  · refine ⟨_, step_exit hin hmem, ?_, ?_, rfl, rfl, rfl, rfl, fun k hk => State.setHost_host_other _ _ hk⟩
    · rw [State.exitHost_eq, State.setHost_host_same]
      rfl
    · rw [State.exitHost_eq, State.setHost_host_same]
      rfl

end Sys2Proof.Machine
end

section
/-! The state at power-on (70_reset R230, R232, R234). -/

namespace Sys2Proof.Machine

section
variable (p : Params) (c p0 p1 : Word)

/-- The one listed context is as any context that has not started. -/
@[simp] theorem State.powerOn_host (h : Nat) : (State.powerOn p c p0 p1).host h = HostCtx.fresh := by
  simp [State.powerOn, State.host, hostsGet]

theorem State.powerOn_hostsKnown : (State.powerOn p c p0 p1).hostsKnown := by
  simp [State.hostsKnown, State.powerOn, Params.hosts]

theorem State.powerOn_inv : (State.powerOn p c p0 p1).Inv :=
  ⟨List.pairwise_singleton _ _, State.powerOn_hostsKnown p c p0 p1, fun h =>
    State.ctxOk_of_idle (congrArg HostCtx.ctl (State.powerOn_host p c p0 p1 h))⟩

end

/-- Settles O53: the register draws appear as they are, and every context is as it starts. -/
theorem powerOnState : Obligations.PowerOnState := fun p c p0 p1 =>
  ⟨rfl, rfl, rfl, fun h => by simp [HostCtx.fresh], rfl, State.powerOn_inv p c p0 p1⟩

/-- Settles O54: reset is a power-on. -/
theorem resetHasTheInvariant : Obligations.ResetHasTheInvariant := State.powerOn_inv _ _ _ _

end Sys2Proof.Machine
end

section
/-! Schedules of lines (20_memory R62): which state the events of a list lead to, and one schedule after another. -/

namespace Sys2Proof.Machine

/-- The events of the list, taken one by one from the head of the input, lead from one state to the other; whose turn it
was before and what the input holds after them play no part. -/
inductive State.RunsTo : State → List Event → State → Prop
  | refl (s : State) : State.RunsTo s [] s
  | cons {s t u : State} {e : Event} {es : List Event}
      (hstep : ∀ c rest, ∃ c', step (s.take c (e :: rest)) = .next (t.take c' rest)) (ht : State.RunsTo t es u) :
      State.RunsTo s (e :: es) u

section
variable {s t u : State} {es es' : List Event}

theorem State.RunsTo.append (hst : s.RunsTo es t) (htu : t.RunsTo es' u) : s.RunsTo (es ++ es') u := by
  induction hst with
  | refl _ => exact htu
  | cons hstep _ ih => exact .cons hstep (ih htu)

/-- The machine's run of the schedule, whatever input follows it. -/
theorem State.RunsTo.run_take (hst : s.RunsTo es t) (c : Nat) (rest : List Event) :
    ∃ c', Sys2Proof.core.run es.length (s.take c (es ++ rest)) = .next (t.take c' rest) := by
  induction hst generalizing c with
  | refl s => exact ⟨c, rfl⟩
  | @cons _ _ _ _ es hstep _ ih =>
    obtain ⟨c₁, h₁⟩ := hstep c (es ++ rest)
    obtain ⟨c₂, h₂⟩ := ih c₁
    exact ⟨c₂, (run_succ_of_step es.length h₁).trans h₂⟩

/-- The machine's run of the schedule as its whole input. -/
theorem State.RunsTo.run (hst : s.RunsTo es t) :
    ∃ c, Sys2Proof.core.run es.length { s with input := es } = .next (t.take c []) := by
  obtain ⟨c, hrun⟩ := hst.run_take s.cur []
  rw [List.append_nil] at hrun
  exact ⟨c, hrun⟩

variable {h : Nat} (hh : h ∈ s.params.hosts)
include hh

theorem State.runsTo_advance : s.RunsTo [.advance h] (s.advance h) :=
  .cons (fun c rest => ⟨h, (step_knownHost (s.take c _) (.advance h) rest rfl hh).trans
    (congrArg Host.Outcome.next (s.take_advance h h rest))⟩) (.refl _)

theorem State.runsTo_issue {ws : List Word} {i : Instr} (hidle : (s.host h).ctl = .idle) (hdec : decode ws = .ok i) :
    s.RunsTo [.issue h ws] (s.issue h i) := by
  refine .cons (fun c rest => ⟨h, ?_⟩) (.refl _)
  rw [step_knownHost (s.take c _) (.issue h ws) rest rfl hh]
  simp only [State.runEvent, State.take_host, hidle, hdec]
  rfl

/-- Lines of the command that context `h` has under way. -/
theorem State.runsTo_runLines {cmd : Instr} (hs : s.Executes h cmd) (k : Nat) :
    s.RunsTo (List.replicate k (.advance h)) (runLines (line cmd) h k s) := by
  rw [runLines_eq_iterate k hs]
  clear hs
  induction k generalizing s with
  | zero => exact .refl s
  | succ k ih => exact (s.runsTo_advance hh).append (ih (by rwa [State.advance_params]))

/-- A command is issued and its first lines follow. -/
theorem State.runsTo_afterLines {ws : List Word} {i : Instr} (hidle : (s.host h).ctl = .idle)
    (hdec : decode ws = .ok i) (k : Nat) :
    s.RunsTo (.issue h ws :: List.replicate k (.advance h)) (s.afterLines h i k) :=
  (s.runsTo_issue hh hidle hdec).append (State.runsTo_runLines (s := s.issue h i) hh (s.issue_executes h i) k)

end

/-! ## What a context's next line or its response leaves of the contexts -/

section
variable (s : State) {h k : Nat}

@[simp] theorem State.toLine_ctl (h : Nat) (cmd : Instr) (n : Nat) (l : Locals) :
    ((s.toLine h cmd n l).host h).ctl = .busy cmd n l := by
  rw [State.toLine_eq, State.setHost_host_same]

theorem State.toLine_host_same (h : Nat) (cmd : Instr) (n : Nat) (l : Locals) :
    (s.toLine h cmd n l).host h = { s.host h with ctl := .busy cmd n l } := State.setHost_host_same ..

theorem State.afterLines_params (h : Nat) (i : Instr) (n : Nat) : (s.afterLines h i n).params = s.params :=
  runLines_induction (P := fun u => u.params = s.params) (fun n l u hu => (line_params i h n l u).trans hu) _ rfl

theorem sameFor_afterLines (hk : k ≠ h) (i : Instr) (n : Nat) : SameFor k s (s.afterLines h i n) :=
  runLines_induction (P := SameFor k s)
    (fun n l u hu => hu.trans ⟨line_host_other i h n l u hk, line_params i h n l u⟩) _ (sameFor_setHost s _ hk)

theorem State.complete_host_other (hk : k ≠ h) (d : Option Word) : (s.complete h d).host k = s.host k :=
  s.setHost_host_other _ hk

end

/-! ## The lines of a command that modifies CTRL once -/

section
variable {cmd : Instr} {f : Word → Word} (hline : line cmd = lineModify cmd f) {s : State} {h : Nat}
include hline

/-- The handle is checked and CTRL is read; the write is still to come. -/
theorem State.afterLines_modify_read (hh : (s.host h).handle ≠ none) :
    s.afterLines h cmd 2 = (s.afterRead .ctrl).toLine h cmd 3 { v := s.regValue .ctrl } := by
  simp [State.afterLines, State.issue, hline, lineModify, State.requireHandle_some, hh, State.regRead]

theorem State.afterLines_modify_all (hh : (s.host h).handle ≠ none) :
    s.afterLines h cmd 4 = (s.modifyCtrl f).complete h none := by
  simp [State.afterLines, State.issue, hline, lineModify, State.requireHandle_some, hh, State.regRead,
    State.modifyCtrl, State.complete_eq]

variable {l : Locals}

theorem State.advance_modify_write (hctl : (s.host h).ctl = .busy cmd 3 l) :
    s.advance h = (s.regWrite .ctrl (f l.v)).toLine h cmd 4 l := by
  rw [State.advance_busy s h hctl, hline]
  rfl

theorem State.advance_modify_end (hctl : (s.host h).ctl = .busy cmd 4 l) : s.advance h = s.complete h none := by
  rw [State.advance_busy s h hctl, hline]
  rfl

end

end Sys2Proof.Machine
end

section
/-! The lost update (70_reset R241): a command that modifies CTRL writes the word it read, so the last of two writes
decides, when both reads came before the first of them. -/

namespace Sys2Proof.Machine

open Sys2Proof.Claims

/-- Context `h` of HOSTS can issue a command that passes the handle check. -/
structure State.Prepared (s : State) (h : Nat) : Prop where
  known  : h ∈ s.params.hosts
  idle   : (s.host h).ctl = .idle
  mapped : (s.host h).handle ≠ none

theorem SameFor.prepared {s t : State} {h : Nat} (hsame : SameFor h s t) (hs : s.Prepared h) : t.Prepared h :=
  ⟨hsame.params ▸ hs.known, hsame.host ▸ hs.idle, hsame.host ▸ hs.mapped⟩

theorem State.agreeOutside_regValue_of_eq {s t : State} (hparams : t.params = s.params) (hctrl : t.ctrl = s.ctrl) :
    AgreeOutside s.drawnBits (t.regValue .ctrl) s.ctrl := by
  rw [← State.drawnBits_congr hparams, ← hctrl]
  exact t.agreeOutside_regValue

section
variable {s : State} {a b : Nat} (hab : a ≠ b) {i j : Instr} {f g : Word → Word}
  (hi : line i = lineModify i f) (hj : line j = lineModify j g)
include hab hi hj

/-- Both contexts read CTRL, one after the other, and what the second one holds is CTRL as it was. -/
theorem runsTo_both_read (ha : s.Prepared a) (hb : s.Prepared b) {ws ws' : List Word} (hws : decode ws = .ok i)
    (hws' : decode ws' = .ok j) :
    ∃ u l l', s.RunsTo (.issue a ws :: .advance a :: .advance a :: .issue b ws' :: .advance b :: [.advance b]) u ∧
      u.params = s.params ∧
      u.host a = { s.host a with ctl := .busy i 3 l } ∧ u.host b = { s.host b with ctl := .busy j 3 l' } ∧
      AgreeOutside s.drawnBits l'.v s.ctrl := by
  have hb' : (s.afterLines a i 2).Prepared b := (sameFor_afterLines s hab.symm i 2).prepared hb
  have hfirst := State.afterLines_modify_read hi ha.mapped
  have hsecond := State.afterLines_modify_read hj hb'.mapped
  refine ⟨_, { v := s.regValue .ctrl }, { v := (s.afterLines a i 2).regValue .ctrl },
    (State.runsTo_afterLines ha.known ha.idle hws 2).append (State.runsTo_afterLines hb'.known hb'.idle hws' 2),
    ?_, ?_, ?_, ?_⟩
  · exact (State.afterLines_params ..).trans (State.afterLines_params ..)
  · rw [(sameFor_afterLines _ hab j 2).host, hfirst, State.toLine_host_same, State.afterRead_host]
  · rw [hsecond, State.toLine_host_same, State.afterRead_host, (sameFor_afterLines s hab.symm i 2).host]
  · exact State.agreeOutside_regValue_of_eq (State.afterLines_params ..) (by rw [hfirst]; exact s.afterRead_ctrl _)

/-- Both contexts write what they hold, modified, and then respond. -/
theorem runsTo_both_write {l l' : Locals} (ha : a ∈ s.params.hosts) (hb : b ∈ s.params.hosts)
    (hactl : (s.host a).ctl = .busy i 3 l) (hbctl : (s.host b).ctl = .busy j 3 l') :
    ∃ t, s.RunsTo [.advance a, .advance b, .advance a, .advance b] t ∧ t.params = s.params ∧ t.ctrl = g l'.v ∧
      (t.host a).responses = okResponse :: (s.host a).responses ∧
      (t.host b).responses = okResponse :: (s.host b).responses := by
  have h₁ : s.advance a = (s.regWrite .ctrl (f l.v)).toLine a i 4 l := State.advance_modify_write hi hactl
  have h₂ : (s.advance a).advance b = ((s.advance a).regWrite .ctrl (g l'.v)).toLine b j 4 l' :=
    State.advance_modify_write hj (by rw [State.advance_host_other _ hab.symm, hbctl])
  have h₃ : ((s.advance a).advance b).advance a = ((s.advance a).advance b).complete a none :=
    State.advance_modify_end hi (l := l) (by rw [State.advance_host_other _ hab, h₁, State.toLine_ctl])
  have h₄ : (((s.advance a).advance b).advance a).advance b = (((s.advance a).advance b).advance a).complete b none :=
    State.advance_modify_end hj (l := l') (by rw [State.advance_host_other _ hab.symm, h₂, State.toLine_ctl])
  refine ⟨_, (State.runsTo_advance ha).append ((State.runsTo_advance ?_).append ((State.runsTo_advance ?_).append
    (State.runsTo_advance ?_))), ?_, ?_, ?_, ?_⟩
  · rwa [State.advance_params]
  · rwa [State.advance_params, State.advance_params]
  · rwa [State.advance_params, State.advance_params, State.advance_params]
  · simp only [State.advance_params]
  · rw [h₄, State.complete_ctrl, h₃, State.complete_ctrl, h₂, State.toLine_ctrl, State.writeCtrl_ctrl]
  · rw [State.advance_host_other _ hab, h₃, State.complete_eq, State.finish_responses, State.advance_host_other _ hab,
      h₁, State.toLine_responses, State.regWrite_host]
    rfl
  · rw [h₄, State.complete_eq, State.finish_responses, State.advance_host_other _ hab.symm, h₂, State.toLine_responses,
      State.regWrite_host, State.advance_host_other _ hab.symm]
    rfl

end

theorem enBit_or_gateBit_ch1 : enBit .ch1 ||| gateBit .ch1 = 0x00280000#32 := by decide

/-- Settles O47: `b` writes last, and it writes the word it read before `a` wrote. -/
theorem interleavedEnablesLoseUpdate : Obligations.InterleavedEnablesLoseUpdate := by
  intro s a b hab ha hb haidle hbidle hahandle hbhandle schedule
  obtain ⟨u, l, l', hread, hu, hua, hub, hv⟩ := runsTo_both_read hab (line_enable .ch0) (line_enable .ch1)
    ⟨ha, haidle, hahandle⟩ ⟨hb, hbidle, hbhandle⟩ (decode_encode rfl) (decode_encode rfl)
  obtain ⟨t, hwrite, ht, htctrl, hta, htb⟩ := runsTo_both_write hab (line_enable .ch0) (line_enable .ch1)
    (hu ▸ ha) (hu ▸ hb) (congrArg HostCtx.ctl hua) (congrArg HostCtx.ctl hub)
  have hparams : t.params = s.params := ht.trans hu
  have hctrl : t.CtrlIs (s.ctrl ||| 0x00280000) := by
    rw [State.CtrlIs, State.drawnBits_congr hparams, htctrl, BitVec.or_assoc, enBit_or_gateBit_ch1]
    exact hv.or _
  obtain ⟨c, hrun⟩ := (hread.append hwrite).run
  refine ⟨t.take c [], hrun, hctrl.and_namedMask, fun hs => hctrl.eq_of_storage (hparams ▸ hs), ?_, ?_⟩
  · rw [State.take_host, hta, hua]
  · rw [State.take_host, htb, hub]

end Sys2Proof.Machine
end

section
/-! CONFIG with the gate saved and other commands' lines in between (43_configure R150, 70_reset R242): its lines 3a to 7
restore `GATE[ch]` as line 2 read it, and leave `EN[ch]` as they find it. -/

namespace Sys2Proof.Machine

open Sys2Proof.Claims

/-! ## `EN` of the words CONFIG puts together -/

theorem en_or (v w : Word) (ch : Channel) : en (v ||| w) ch = (en v ch || en w ch) := by
  simp only [en_eq, BitVec.getLsbD_or]

theorem en_and (v w : Word) (ch : Channel) : en (v &&& w) ch = (en v ch && en w ch) := by
  simp only [en_eq, BitVec.getLsbD_and]

theorem en_namedMask (ch : Channel) : en namedMask ch = true := by cases ch <;> decide

theorem en_gateBit (ch : Channel) : en (gateBit ch) ch = false := by cases ch <;> decide

theorem en_not_clearMask (ch : Channel) : en (~~~ (prescMask ch ||| gateBit ch)) ch = true := by cases ch <;> decide

theorem en_prescAt (ch : Channel) (i : BitVec 4) : en (prescAt ch i) ch = false := by
  rw [en_eq, prescAt_getLsbD, BitVec.getLsbD_of_ge i _ (by omega), Bool.and_false]

theorem en_congr {v w : Word} (h : v &&& namedMask = w &&& namedMask) (ch : Channel) : en v ch = en w ch := by
  simpa only [en_and, en_namedMask, Bool.and_true] using congrArg (en · ch) h

theorem gate_gateBit (ch : Channel) : gate (gateBit ch) ch = true := by cases ch <;> decide

/-! ## CTRL after the lines 3a to 6b -/

/-- What the lines 3a to 6b make of CTRL, with the saved gate `g`. -/
def restoredWord (v : Word) (ch : Channel) (i : BitVec 4) (g : Bool) : Word :=
  if g then clearedWord v ch ||| prescAt ch i ||| gateBit ch else clearedWord v ch ||| prescAt ch i

section
variable (v : Word) (ch : Channel) (i : BitVec 4) (g : Bool)

theorem en_restoredWord : en (restoredWord v ch i g) ch = en v ch := by
  cases g <;> simp [restoredWord, clearedWord, en_or, en_and, en_not_clearMask, en_prescAt, en_gateBit]

theorem gate_restoredWord : gate (restoredWord v ch i g) ch = g := by
  cases g <;> simp [restoredWord, clearedWord, gate_or, gate_and, gate_not_clearMask, gate_prescAt, gate_gateBit]

theorem presc_restoredWord : presc (restoredWord v ch i g) ch = i := by
  cases g <;> simp [restoredWord, clearedWord, presc_or, presc_and, presc_not_clearMask, presc_prescAt, presc_gateBit]

end

/-- CONFIG's register accesses of the lines 3a to 6b, with the locals that its lines 0 to 2 left. -/
def State.restored (s : State) (ch : Channel) (l : Locals) : State :=
  let cleared := s.modifyCtrl (· &&& ~~~ (prescMask ch ||| gateBit ch))
  let stored := (cleared.modifyCtrl (· ||| prescAt ch l.idx)).regWrite (.period ch) l.word
  if l.g then stored.modifyCtrl (· ||| gateBit ch) else stored

section
variable (s : State) (ch : Channel) (l : Locals)

@[simp] theorem State.restored_host (h : Nat) : (s.restored ch l).host h = s.host h := by
  unfold State.restored
  dsimp only
  split
  · simp
  · simp

theorem State.restored_ctrlIs : (s.restored ch l).CtrlIs (restoredWord s.ctrl ch l.idx l.g) := by
  have hstored := (((State.CtrlIs.refl s).modifyCtrl_and (~~~ (prescMask ch ||| gateBit ch))).modifyCtrl_or
    (prescAt ch l.idx)).congr (State.regWrite_params _ (.period ch) l.word) (State.writePeriod_ctrl ..)
  unfold State.restored restoredWord
  dsimp only
  split
  · exact hstored.modifyCtrl_or _
  · exact hstored

theorem State.restored_en : en (s.restored ch l).ctrl ch = en s.ctrl ch :=
  (en_congr (s.restored_ctrlIs ch l).and_namedMask ch).trans (en_restoredWord ..)

theorem State.restored_gate : gate (s.restored ch l).ctrl ch = l.g :=
  (gate_congr (s.restored_ctrlIs ch l).and_namedMask ch).trans (gate_restoredWord ..)

theorem State.restored_presc : presc (s.restored ch l).ctrl ch = l.idx :=
  (presc_congr (s.restored_ctrlIs ch l).and_namedMask ch).trans (presc_restoredWord ..)

end

/-! ## The two parts of CONFIG -/

/-- What CONFIG's lines 1 and 2 leave in its locals. -/
def configLocals (s : State) (ch : Channel) (r : TpeResult) : Locals :=
  { v := s.regValue .ctrl, g := gate (s.regValue .ctrl) ch, idx := r.idx, word := r.word }

section
variable {s : State} {h : Nat} {ch : Channel} {p d : BitVec 64}

/-- The lines 0 to 2: the period is encoded, CTRL is read and its gate saved. -/
theorem State.afterLines_config_save {r : TpeResult} (hh : (s.host h).handle ≠ none)
    (hr : tpe p.toNat d.toNat = some r) :
    s.afterLines h (.config ch p d) 4 = (s.afterRead .ctrl).toLine h (.config ch p d) 5 (configLocals s ch r) := by
  simp [State.afterLines, State.issue, line, lineConfig, State.requireHandle_some, hh,
    show ¬ p = 0#64 from tpe_periodNs_ne_zero hr, hr, State.regRead, configLocals]

/-- The lines 3a to 7, from any state in which they are next. -/
theorem runLines_config_restore {l : Locals} (hctl : (s.host h).ctl = .busy (.config ch p d) 5 l) :
    runLines (line (.config ch p d)) h 8 s = (s.restored ch l).complete h none := by
  rw [runLines_busy _ _ _ _ hctl]
  cases hg : l.g <;>
    simp [line, lineConfig, hg, State.regRead, State.restored, State.modifyCtrl, State.complete_eq]

end

/-! ## The other command -/

/-- A command that changes the gate. -/
def gateChange (ch : Channel) (off : Bool) : Instr := if off then .disable ch else .enable ch

/-- It is one modification of CTRL, which sets `EN[ch]` or clears it. -/
theorem line_gateChange (ch : Channel) (off : Bool) : ∃ f, line (gateChange ch off) = lineModify (gateChange ch off) f ∧
    ∀ v, en (f v) ch = !off := by
  cases off with
  | false => exact ⟨_, line_enable ch, fun v => by simp [en_eq, enBit_getLsbD]⟩
  | true => exact ⟨_, line_disable ch, fun v => by simp [en_eq, enBit_getLsbD]⟩

theorem gateChange_wf (ch : Channel) (off : Bool) : (gateChange ch off).wf = true := by cases off <;> rfl

/-! ## The interleaving -/

/-- `a` saves the gate in its locals, and then a command of `b` that modifies CTRL once runs from its issue to its
response. -/
theorem runsTo_config_save_modify {s : State} {a b : Nat} (hab : a ≠ b) (ha : s.Prepared a) (hb : s.Prepared b)
    (ch : Channel) {p d : BitVec 64} {r : TpeResult} (hr : tpe p.toNat d.toNat = some r) {i : Instr} {f : Word → Word}
    (hi : line i = lineModify i f) (hwf : i.wf = true) :
    ∃ u, s.RunsTo ((.issue a (encode (.config ch p d)) :: List.replicate 4 (.advance a)) ++
        (.issue b (encode i) :: List.replicate 4 (.advance b))) u ∧
      u.params = s.params ∧ (∃ v, u.ctrl = f v) ∧
      u.host a = { s.host a with ctl := .busy (.config ch p d) 5 (configLocals s ch r) } ∧
      u.host b = { s.host b with ctl := .idle, responses := okResponse :: (s.host b).responses } := by
  have hsame := sameFor_afterLines s hab.symm (.config ch p d) 4
  have hb' := hsame.prepared hb
  have hsave := State.afterLines_config_save (ch := ch) ha.mapped hr
  have hmodify := State.afterLines_modify_all hi hb'.mapped
  refine ⟨_, (State.runsTo_afterLines ha.known ha.idle (decode_encode rfl) 4).append
    (State.runsTo_afterLines hb'.known hb'.idle (decode_encode hwf) 4), ?_, ?_, ?_, ?_⟩
  · exact (State.afterLines_params ..).trans (State.afterLines_params ..)
  · rw [hmodify]
    exact ⟨_, rfl⟩
  · rw [(sameFor_afterLines _ hab i 4).host, hsave, State.toLine_host_same, State.afterRead_host]
  · rw [hmodify, State.complete_eq, State.finish_eq, State.setHost_host_same, State.modifyCtrl_host, hsame.host]
    rfl

/-- Settles O48: the remaining lines of `a` restore the gate that it saved, over what `b` wrote. -/
theorem configIgnoresConcurrentGateChange : Obligations.ConfigIgnoresConcurrentGateChange := by
  intro s a b ch p d r off hab ha hb haidle hbidle hahandle hbhandle hr hg other schedule
  obtain ⟨f, hline, hen⟩ := line_gateChange ch off
  obtain ⟨u, hrun, hu, ⟨v, hctrl⟩, hua, hub⟩ := runsTo_config_save_modify hab ⟨ha, haidle, hahandle⟩
    ⟨hb, hbidle, hbhandle⟩ ch hr hline (gateChange_wf ch off)
  have hctl := congrArg HostCtx.ctl hua
  have hrest := State.runsTo_runLines (hu ▸ ha) (.inr ⟨_, _, hctl⟩) 8
  rw [runLines_config_restore hctl] at hrest
  obtain ⟨c, hfinal⟩ := (hrun.append hrest).run
  refine ⟨_, hfinal, ?_, ?_, ?_, ?_, ?_⟩
  · rw [State.take_ctrl, State.complete_ctrl, State.restored_en, hctrl, hen]
  · rw [State.take_ctrl, State.complete_ctrl, State.restored_gate, ← hg]
    exact gate_congr s.regValue_ctrl_and_namedMask ch
  · exact State.restored_presc ..
  · rw [State.take_host, State.complete_eq, State.finish_responses, State.restored_host, hua]
    rfl
  · rw [State.take_host, State.complete_host_other _ hab.symm, State.restored_host, hub]

end Sys2Proof.Machine
end
